-- ==== Sys2Proof/Word.lean ====
section
/-! DEFINITION. The word types of the block (00_scope.md R6): registers are unsigned bytes,
device addresses have seven bits, a transaction's header sixteen, and there are eight pins. -/

namespace Sys2Proof

/-- An 8-bit register value or data byte (R6). -/
abbrev Byte := BitVec 8

/-- A 7-bit bus device address (R39). -/
abbrev DevAddr := BitVec 7

/-- The 16-bit canonical header of a transaction (R54). -/
abbrev Header := BitVec 16

/-- A pin index 0 to 7 (R16). -/
abbrev Pin := Fin 8

end Sys2Proof
end

