-- ==== Sys2Proof/Syntax.lean ====
section
/-! DEFINITION. What the block can be told: the 22 register access forms of spec/opcode_table.json
(30_encoding.md R53, R57), the frame a transaction travels in (R54, R55), and the host operations of
30_encoding.md R61 with the operand types of their rules. -/

namespace Sys2Proof

/-- The eleven implemented register addresses, in address order 0x00 to 0x0A (10_state.md R15). -/
inductive Reg where
  | iodir | ipol | gpinten | defval | intcon | iocon | gppu | intf | intcap | gpio | olat
deriving DecidableEq, Repr

/-- The register access forms (30_encoding.md R57). `dev` is the device address the transaction names;
a write carries its data bytes, a read the number of bytes it asks for (R53). -/
inductive Instr where
  | wrIodir   (dev : DevAddr) (data : List Byte)
  | rdIodir   (dev : DevAddr) (count : Nat)
  | wrIpol    (dev : DevAddr) (data : List Byte)
  | rdIpol    (dev : DevAddr) (count : Nat)
  | wrGpinten (dev : DevAddr) (data : List Byte)
  | rdGpinten (dev : DevAddr) (count : Nat)
  | wrDefval  (dev : DevAddr) (data : List Byte)
  | rdDefval  (dev : DevAddr) (count : Nat)
  | wrIntcon  (dev : DevAddr) (data : List Byte)
  | rdIntcon  (dev : DevAddr) (count : Nat)
  | wrIocon   (dev : DevAddr) (data : List Byte)
  | rdIocon   (dev : DevAddr) (count : Nat)
  | wrGppu    (dev : DevAddr) (data : List Byte)
  | rdGppu    (dev : DevAddr) (count : Nat)
  | wrIntf    (dev : DevAddr) (data : List Byte)
  | rdIntf    (dev : DevAddr) (count : Nat)
  | wrIntcap  (dev : DevAddr) (data : List Byte)
  | rdIntcap  (dev : DevAddr) (count : Nat)
  | wrGpio    (dev : DevAddr) (data : List Byte)
  | rdGpio    (dev : DevAddr) (count : Nat)
  | wrOlat    (dev : DevAddr) (data : List Byte)
  | rdOlat    (dev : DevAddr) (count : Nat)
deriving DecidableEq, Repr

/-- A transaction as the bus carries it (R54, R55): the header's two bytes, high byte first, then a
write's data bytes; and the number of bytes the host asks back, which is zero for a write. -/
structure Frame where
  bytes : List Byte
  count : Nat
deriving DecidableEq, Repr

/-- The six trigger modes (10_state.md R36). -/
inductive TrigMode where
  | none | rising | falling | change | levelHigh | levelLow
deriving DecidableEq, Repr

/-- The direction operand of setDirection (41_pin_operations.md R95). -/
inductive Direction where
  | input | output
deriving DecidableEq, Repr

/-- The named IOCON fields of setConfigField and getConfigField (43_interrupt_operations.md R118). -/
inductive CfgField where
  | intpol | odr | disslw | seqop
deriving DecidableEq, Repr

/-- Interrupt output polarity (R119, R120). -/
inductive Polarity where
  | activeLow | activeHigh
deriving DecidableEq, Repr

/-- Interrupt output drive (R121, R122). -/
inductive DriveMode where
  | activeDriver | openDrain
deriving DecidableEq, Repr

/-- An operand of an enumerated type as a caller can pass it: a value of the type, or something outside
it, which 60_exceptions.md R125 makes the fault BadOperand. -/
inductive Arg (α : Type) where
  | val (x : α)
  | bad (code : Nat)
deriving DecidableEq, Repr

/-- The host operations (30_encoding.md R61). A pin index is any integer (R90 checks it), a trigger mode
its 3-bit code (R36), a register address any byte, a strap value any natural number (R139). -/
inductive HostOp where
  | readRegister (a : Byte)
  | writeRegister (a b : Byte)
  | setBit (a : Byte) (p : Int) (v : Bool)
  | setDirection (p : Int) (d : Arg Direction)
  | writePin (p : Int) (high : Arg Bool)
  | readPin (p : Int)
  | setPullUp (p : Int) (enabled : Bool)
  | setInputPolarity (p : Int) (inverted : Bool)
  | readPort
  | writePort (b : Byte)
  | enableInterrupt (p : Int) (mode : BitVec 3)
  | disableInterrupt (p : Int)
  | evaluatePendingInterrupts
  | setConfigField (f : Arg CfgField) (v : Bool)
  | getConfigField (f : Arg CfgField)
  | setInterruptPolarity (pol : Arg Polarity)
  | getInterruptPolarity
  | setInterruptDrive (d : Arg DriveMode)
  | getInterruptDrive
  | beginOp (strap : Nat)
deriving DecidableEq, Repr

end Sys2Proof
end

