-- ==== Sys2Proof/WellFormed.lean ====
section
/-! DEFINITION. Which terms of the syntax are the spec's: an instruction whose device address is one an
expander can have (30_encoding.md R54, R57), a host operation whose operands are of their types
(60_exceptions.md R125). -/

namespace Sys2Proof

/-- The device address an instruction names. -/
def Instr.dev : Instr → DevAddr
  | .wrIodir d _ | .rdIodir d _ | .wrIpol d _ | .rdIpol d _ | .wrGpinten d _ | .rdGpinten d _
  | .wrDefval d _ | .rdDefval d _ | .wrIntcon d _ | .rdIntcon d _ | .wrIocon d _ | .rdIocon d _
  | .wrGppu d _ | .rdGppu d _ | .wrIntf d _ | .rdIntf d _ | .wrIntcap d _ | .rdIntcap d _
  | .wrGpio d _ | .rdGpio d _ | .wrOlat d _ | .rdOlat d _ => d

/-- H[15:12] of an opcode-table row is 0b0100 (R54): the device address is 0x20 to 0x27. -/
def Instr.WellFormed (i : Instr) : Bool :=
  i.dev.extractLsb 6 3 == 0b0100#4

/-- An operand lies inside its type. -/
def Arg.isVal {α : Type} : Arg α → Bool
  | .val _ => true
  | .bad _ => false

/-- Every operand of the host operation lies inside its type (R125); a mode code 6 or 7 does not (R36). -/
def HostOp.WellFormed : HostOp → Bool
  | .setDirection _ d => d.isVal
  | .writePin _ l => l.isVal
  | .enableInterrupt _ m => decide (m.toNat < 6)
  | .setConfigField f _ => f.isVal
  | .getConfigField f => f.isVal
  | .setInterruptPolarity pol => pol.isVal
  | .setInterruptDrive d => d.isVal
  | .readRegister _ | .writeRegister _ _ | .setBit _ _ _ | .readPin _ | .setPullUp _ _
  | .setInputPolarity _ _ | .readPort | .writePort _ | .disableInterrupt _
  | .evaluatePendingInterrupts | .getInterruptPolarity | .getInterruptDrive | .beginOp _ => true

end Sys2Proof
end

