-- ==== Sys2Proof/Decode.lean ====
section
/-! DEFINITION. From the bytes of a transaction to the instruction it is, and back (30_encoding.md R53
to R60): the decoder, total on any frame and refusing by name; the encoder; and the words of
spec/opcode_table.json. -/

namespace Sys2Proof

/-- The register address of a register (10_state.md R15). -/
def Reg.addr : Reg → Byte
  | .iodir => 0x00
  | .ipol => 0x01
  | .gpinten => 0x02
  | .defval => 0x03
  | .intcon => 0x04
  | .iocon => 0x05
  | .gppu => 0x06
  | .intf => 0x07
  | .intcap => 0x08
  | .gpio => 0x09
  | .olat => 0x0A

/-- The register at an address; none for the reserved addresses 0x0B to 0xFF (20_memory.md R41). -/
def Reg.ofAddr (a : Byte) : Option Reg :=
  match a.toNat with
  | 0 => some .iodir
  | 1 => some .ipol
  | 2 => some .gpinten
  | 3 => some .defval
  | 4 => some .intcon
  | 5 => some .iocon
  | 6 => some .gppu
  | 7 => some .intf
  | 8 => some .intcap
  | 9 => some .gpio
  | 10 => some .olat
  | _ => none

/-- The header H of a device address, direction bit and register address (R54). -/
def headerOf (dev : DevAddr) (isRead : Bool) (reg : Byte) : Header :=
  (dev ++ BitVec.ofBool isRead) ++ reg

/-- H[15:9] (R54). -/
def headerDev (h : Header) : DevAddr := h.extractLsb 15 9

/-- H[8]: 0 for a write, 1 for a read (R54). -/
def headerIsRead (h : Header) : Bool := h.getLsbD 8

/-- H[7:0] (R54). -/
def headerReg (h : Header) : Byte := h.extractLsb 7 0

/-- The header as the two bytes that stand first in a frame, its high byte first. -/
def headerBytes (h : Header) : List Byte :=
  [h.extractLsb 15 8, h.extractLsb 7 0]

/-- The header of a frame of two bytes or more. -/
def joinHeader (hi lo : Byte) : Header := hi ++ lo

/-- The frame of `WR(dev, reg, data)`, for any register address (R53). -/
def Frame.write (dev : DevAddr) (reg : Byte) (data : List Byte) : Frame :=
  ⟨headerBytes (headerOf dev false reg) ++ data, 0⟩

/-- The frame of `RD(dev, reg, n)`, for any register address (R53). -/
def Frame.read (dev : DevAddr) (reg : Byte) (n : Nat) : Frame :=
  ⟨headerBytes (headerOf dev true reg), n⟩

/-- Why a frame is none of the 22 forms. -/
inductive DecodeError where
  /-- Fewer than the two bytes of a header: no transaction of R53. -/
  | noHeader
  /-- H[15:12] is not 0b0100: the transaction is for another device (R58). -/
  | foreignDevice (dev : DevAddr)
  /-- H[7:0] is 0x0B to 0xFF (R59). -/
  | reservedRegister (dev : DevAddr) (reg : Byte)
  /-- A write that asks bytes back: neither form of R53. -/
  | writeWithCount (dev : DevAddr)
  /-- A read that carries data bytes: neither form of R53. -/
  | readWithData (dev : DevAddr)
deriving DecidableEq, Repr

/-- The write form of a register (R57). -/
def writeForm (dev : DevAddr) (data : List Byte) : Reg → Instr
  | .iodir => .wrIodir dev data
  | .ipol => .wrIpol dev data
  | .gpinten => .wrGpinten dev data
  | .defval => .wrDefval dev data
  | .intcon => .wrIntcon dev data
  | .iocon => .wrIocon dev data
  | .gppu => .wrGppu dev data
  | .intf => .wrIntf dev data
  | .intcap => .wrIntcap dev data
  | .gpio => .wrGpio dev data
  | .olat => .wrOlat dev data

/-- The read form of a register (R57). -/
def readForm (dev : DevAddr) (count : Nat) : Reg → Instr
  | .iodir => .rdIodir dev count
  | .ipol => .rdIpol dev count
  | .gpinten => .rdGpinten dev count
  | .defval => .rdDefval dev count
  | .intcon => .rdIntcon dev count
  | .iocon => .rdIocon dev count
  | .gppu => .rdGppu dev count
  | .intf => .rdIntf dev count
  | .intcap => .rdIntcap dev count
  | .gpio => .rdGpio dev count
  | .olat => .rdOlat dev count

/-- The decoder: device base, then register address, then the form the R bit selects, in the order of
60_exceptions.md R126. -/
def decode (f : Frame) : Except DecodeError Instr :=
  match f.bytes with
  | hi :: lo :: data =>
    let h := joinHeader hi lo
    let dev := headerDev h
    if dev.extractLsb 6 3 = 0b0100#4 then
      match Reg.ofAddr (headerReg h) with
      | none => .error (.reservedRegister dev (headerReg h))
      | some r =>
        if headerIsRead h then
          match data with
          | [] => .ok (readForm dev f.count r)
          | _ :: _ => .error (.readWithData dev)
        else
          match f.count with
          | 0 => .ok (writeForm dev data r)
          | _ + 1 => .error (.writeWithCount dev)
    else .error (.foreignDevice dev)
  | [_] | [] => .error .noHeader

/-- The register an instruction's header names. -/
def Instr.reg : Instr → Reg
  | .wrIodir _ _ | .rdIodir _ _ => .iodir
  | .wrIpol _ _ | .rdIpol _ _ => .ipol
  | .wrGpinten _ _ | .rdGpinten _ _ => .gpinten
  | .wrDefval _ _ | .rdDefval _ _ => .defval
  | .wrIntcon _ _ | .rdIntcon _ _ => .intcon
  | .wrIocon _ _ | .rdIocon _ _ => .iocon
  | .wrGppu _ _ | .rdGppu _ _ => .gppu
  | .wrIntf _ _ | .rdIntf _ _ => .intf
  | .wrIntcap _ _ | .rdIntcap _ _ => .intcap
  | .wrGpio _ _ | .rdGpio _ _ => .gpio
  | .wrOlat _ _ | .rdOlat _ _ => .olat

/-- The encoder: the frame of an instruction (R54, R55). -/
def encode (i : Instr) : Frame :=
  match i with
  | .wrIodir d bs | .wrIpol d bs | .wrGpinten d bs | .wrDefval d bs | .wrIntcon d bs | .wrIocon d bs
  | .wrGppu d bs | .wrIntf d bs | .wrIntcap d bs | .wrGpio d bs | .wrOlat d bs =>
    .write d i.reg.addr bs
  | .rdIodir d n | .rdIpol d n | .rdGpinten d n | .rdDefval d n | .rdIntcon d n | .rdIocon d n
  | .rdGppu d n | .rdIntf d n | .rdIntcap d n | .rdGpio d n | .rdOlat d n =>
    .read d i.reg.addr n

/-- The header of a frame; zero where the frame holds none. -/
def Frame.header (f : Frame) : Header :=
  match f.bytes with
  | hi :: lo :: _ => joinHeader hi lo
  | _ => 0

/-- An instruction given as the number spec/opcode_table.json makes of it: bits 15..0 are the header;
further bits are a write's data bytes, the lowest first, or a read's count (log entry 23). -/
def Frame.ofTableWord (nbits w : Nat) : Frame :=
  let h : Header := BitVec.ofNat 16 w
  let above := (w % 2 ^ nbits) / 2 ^ 16
  if headerIsRead h then ⟨headerBytes h, above⟩
  else ⟨headerBytes h ++ (List.range ((nbits - 16) / 8)).map (fun k => BitVec.ofNat 8 (above / 2 ^ (8 * k))), 0⟩

/-- The instruction the decoder reads from a word of spec/opcode_table.json. -/
def decodeTableWord (nbits w : Nat) : Option Instr :=
  match decode (Frame.ofTableWord nbits w) with
  | .ok i => some i
  | .error _ => none

/-! One word for each form, written out from the encodings of R54 and R57: the strap bits `aaa` differ
from row to row, a write carries a data byte, a read a count. -/

theorem decode_wrIodir : decode ⟨[0b01000000, 0b00000000, 0xF0], 0⟩ = .ok (.wrIodir 0b0100000 [0xF0]) := by decide
theorem decode_rdIodir : decode ⟨[0b01000011, 0b00000000], 1⟩ = .ok (.rdIodir 0b0100001 1) := by decide
theorem decode_wrIpol : decode ⟨[0b01000100, 0b00000001, 0x04], 0⟩ = .ok (.wrIpol 0b0100010 [0x04]) := by decide
theorem decode_rdIpol : decode ⟨[0b01000111, 0b00000001], 2⟩ = .ok (.rdIpol 0b0100011 2) := by decide
theorem decode_wrGpinten : decode ⟨[0b01001000, 0b00000010, 0x01], 0⟩ = .ok (.wrGpinten 0b0100100 [0x01]) := by decide
theorem decode_rdGpinten : decode ⟨[0b01001011, 0b00000010], 1⟩ = .ok (.rdGpinten 0b0100101 1) := by decide
theorem decode_wrDefval : decode ⟨[0b01001100, 0b00000011, 0x20], 0⟩ = .ok (.wrDefval 0b0100110 [0x20]) := by decide
theorem decode_rdDefval : decode ⟨[0b01001111, 0b00000011], 1⟩ = .ok (.rdDefval 0b0100111 1) := by decide
theorem decode_wrIntcon : decode ⟨[0b01000000, 0b00000100, 0x20], 0⟩ = .ok (.wrIntcon 0b0100000 [0x20]) := by decide
theorem decode_rdIntcon : decode ⟨[0b01000001, 0b00000100], 0⟩ = .ok (.rdIntcon 0b0100000 0) := by decide
theorem decode_wrIocon : decode ⟨[0b01001010, 0b00000101, 0x20, 0x11, 0x44], 0⟩ = .ok (.wrIocon 0b0100101 [0x20, 0x11, 0x44]) := by decide
theorem decode_rdIocon : decode ⟨[0b01000001, 0b00000101], 1⟩ = .ok (.rdIocon 0b0100000 1) := by decide
theorem decode_wrGppu : decode ⟨[0b01000000, 0b00000110, 0x28], 0⟩ = .ok (.wrGppu 0b0100000 [0x28]) := by decide
theorem decode_rdGppu : decode ⟨[0b01000101, 0b00000110], 1⟩ = .ok (.rdGppu 0b0100010 1) := by decide
theorem decode_wrIntf : decode ⟨[0b01000000, 0b00000111, 0x00], 0⟩ = .ok (.wrIntf 0b0100000 [0x00]) := by decide
theorem decode_rdIntf : decode ⟨[0b01000111, 0b00000111], 1⟩ = .ok (.rdIntf 0b0100011 1) := by decide
theorem decode_wrIntcap : decode ⟨[0b01000000, 0b00001000, 0xFF], 0⟩ = .ok (.wrIntcap 0b0100000 [0xFF]) := by decide
theorem decode_rdIntcap : decode ⟨[0b01001111, 0b00001000], 1⟩ = .ok (.rdIntcap 0b0100111 1) := by decide
theorem decode_wrGpio : decode ⟨[0b01000000, 0b00001001, 0xA5], 0⟩ = .ok (.wrGpio 0b0100000 [0xA5]) := by decide
theorem decode_rdGpio : decode ⟨[0b01000111, 0b00001001], 3⟩ = .ok (.rdGpio 0b0100011 3) := by decide
theorem decode_wrOlat : decode ⟨[0b01000000, 0b00001010], 0⟩ = .ok (.wrOlat 0b0100000 []) := by decide
theorem decode_rdOlat : decode ⟨[0b01000001, 0b00001010], 11⟩ = .ok (.rdOlat 0b0100000 11) := by decide

end Sys2Proof
end

