-- ==== Sys2Proof/Config.lean ====
section
/-! DEFINITION. What an implementation fixes: the parameters of 00_scope.md R4, and the free value of
the draws of 10_state.md R31. The parameters are a record the machine's state carries and never
changes, so that a statement about every state is a statement about every value of every parameter
(log entry 1, DESIGN CHOICE). -/

namespace Sys2Proof

/-- What an out-of-range pin index gives (P_INVALID_PIN_POLICY, R90). -/
inductive PinPolicy where
  | silent | explicit
deriving DecidableEq, Repr

/-- The parameters of R4. -/
structure Params where
  /-- P_STRAP: the value of the chip's three strap inputs (20_memory.md R40). -/
  strap : BitVec 3
  /-- P_BIT_INTPOL: position of the INTPOL bit of IOCON. -/
  bitIntpol : Pin
  /-- P_BIT_ODR. -/
  bitOdr : Pin
  /-- P_BIT_HAEN. -/
  bitHaen : Pin
  /-- P_BIT_DISSLW. -/
  bitDisslw : Pin
  /-- P_BIT_SEQOP. -/
  bitSeqop : Pin
  /-- P_CFG_IMPL_MASK: the bits of IOCON that are stored (10_state.md R23). -/
  implMask : Byte
  /-- P_SEQ_WRAP: where the pointer goes after 0x0A, an implemented address (30_encoding.md R59). -/
  seqWrap : Reg
  /-- P_INTF_ACCUMULATE (42_interrupt_comparator.md R104). -/
  intfAccumulate : Bool
  /-- P_GPIO_READ_CLEARS (40_register_access.md R87). -/
  gpioReadClears : Bool
  /-- P_CMP_POST_IPOL (42_interrupt_comparator.md R102). -/
  cmpPostIpol : Bool
  /-- P_INVALID_PIN_POLICY (40_register_access.md R90). -/
  invalidPin : PinPolicy
deriving DecidableEq, Repr

/-- The defaults of R4; strap 0. -/
def Params.default : Params where
  strap := 0
  bitIntpol := 1
  bitOdr := 2
  bitHaen := 3
  bitDisslw := 4
  bitSeqop := 5
  implMask := 0x3E
  seqWrap := .iodir
  intfAccumulate := false
  gpioReadClears := true
  cmpPostIpol := true
  invalidPin := .silent

/-- FREE VALUE (log entry 2). The draws of the n-th sample of the pins, one bit for each pin that floats
or is contended at that sample (10_state.md R31, R32; 00_scope.md R9). Nothing constrains it. -/
opaque Config.drawByte : Nat → Byte

end Sys2Proof
end

