-- ==== Sys2Proof/Machine/State.lean ====
section
/-! DEFINITION. The state of the block and what surrounds it, as plain data: the chip's registers and
hidden state (10_state.md R15 to R34), the environment's drive of the pins (R30), the host side of the
edge/level detector (R36, R37), the host contexts, and the inputs that decide what happens next. -/

namespace Sys2Proof.Machine

/-- All of the chip's state (10_state.md R29): ten storage registers, PTR and PREV. -/
structure Chip where
  iodir : Byte
  ipol : Byte
  gpinten : Byte
  defval : Byte
  intcon : Byte
  iocon : Byte
  gppu : Byte
  intf : Byte
  intcap : Byte
  olat : Byte
  /-- The register address pointer (R33). -/
  ptr : Byte
  /-- The comparator's previous sample (R34). -/
  prev : Byte
deriving DecidableEq, Repr

/-- The environment's drive of one pin: `L`, `H` or `Z` (R30). -/
inductive Drive where
  | low | high | undriven
deriving DecidableEq, Repr

/-- The environment's drive of the eight pins (R30). -/
abbrev Ext := Vector Drive 8

/-- The host side of the edge/level detector: host.ADDR (R37) and host.MODE (R36). -/
structure HostSide where
  addr : DevAddr
  mode : Vector TrigMode 8
deriving DecidableEq, Repr

/-- What a transaction gives its issuer (30_encoding.md R53). -/
inductive Reply where
  | ok
  | bytes (bs : List Byte)
  | busError
deriving DecidableEq, Repr

/-- What a host operation returns (60_exceptions.md R124). -/
inductive OpResult where
  | ok
  | byte (b : Byte)
  | level (high : Bool)
  | flag (v : Bool)
  | polarity (p : Polarity)
  | drive (d : DriveMode)
  | busError
  | invalidPin
deriving DecidableEq, Repr

/-- What a host operation makes of the one byte it reads. -/
inductive ReadUse where
  | byte
  | pin (p : Pin)
  | field (bit : Pin)
  | polarity (bit : Pin)
  | drive (bit : Pin)
deriving DecidableEq, Repr

/-- What is left of a host operation in progress: the transactions of its expansion still to be issued
(30_encoding.md R61), and what comes of them. -/
inductive Script where
  /-- Nothing is left; the operation returns this. -/
  | done (r : OpResult)
  /-- One write transaction of one byte. -/
  | write (a b : Byte) (k : Script)
  /-- The read of a read-modify-write (40_register_access.md R93); its write comes next. -/
  | rmw (a : Byte) (p : Pin) (v : Bool) (k : Script)
  /-- One read transaction of one byte, which gives the result. -/
  | read (a : Byte) (use : ReadUse)
  /-- The read of INTF of evaluatePendingInterrupts (43_interrupt_operations.md R116). -/
  | readPending
  /-- Its read of INTCAP. -/
  | readCaptured (pending : Byte)
  /-- Its qualification of the pending pins under the shadow. -/
  | qualify (pending captured : Byte)
deriving DecidableEq, Repr

/-- A host execution context (00_scope.md R5): the operations it is still to run, the one in progress,
and the results returned to it, newest first. -/
structure Context where
  program : List HostOp
  running : Option Script
  results : List OpResult
deriving DecidableEq, Repr

/-- One host driver bound to the chip: its address and shadow, and the execution contexts that share them
(60_exceptions.md R134: two drivers on one chip have two shadows). -/
structure Driver where
  side : HostSide
  contexts : List Context
deriving DecidableEq, Repr

/-- A failure of a transaction (40_register_access.md R67): `after` accesses have been performed; with
none performed, `ptrSet` says whether the pointer was set. -/
structure BusFailure where
  after : Nat
  ptrSet : Bool
deriving DecidableEq, Repr

/-- What the environment does to one transaction addressed to the chip: whether it fails (R67), and the
environment steps it takes after each access, in order (20_memory.md R44). -/
structure BusCond where
  failure : Option BusFailure
  gaps : List (List Ext)
deriving DecidableEq, Repr

/-- One entry of the serial order of events (20_memory.md R44, R47, R48). -/
inductive Turn where
  /-- A bus master issues a transaction directly (00_scope.md R5, 60_exceptions.md R131). -/
  | direct (f : Frame)
  /-- Context number `c` of driver number `d` makes its next move. -/
  | host (d c : Nat)
  /-- An environment step (42_interrupt_comparator.md R107). -/
  | environ (e : Ext)
  /-- Power-on or external reset of the chip (70_reset_and_hazards.md R136). -/
  | chipReset
  /-- Driver number `d` is destroyed and made anew (60_exceptions.md R135, 70_reset_and_hazards.md R147). -/
  | hostRestart (d : Nat)
deriving DecidableEq, Repr

/-- The state. `schedule` and `busEnv` are inputs: plain data that says what the agents do next (log
entries 7 and 8, DESIGN CHOICE). -/
structure State where
  /-- The parameters of 00_scope.md R4; no step changes them. -/
  cfg : Params
  chip : Chip
  ext : Ext
  /-- The host drivers, each with its contexts. -/
  drivers : List Driver
  /-- Replies delivered to bus masters, newest first. -/
  replies : List Reply
  /-- The turns still to come, the next one first. -/
  schedule : List Turn
  /-- What the environment does to the coming transactions addressed to the chip, the next one first;
  where the list has ended it does nothing. -/
  busEnv : List BusCond
  /-- The number of samples of the pins taken so far, which indexes the free value `Config.drawByte`. -/
  draws : Nat
deriving DecidableEq, Repr

/-- Why the machine stops. -/
inductive Fault where
  /-- ReservedRegister (30_encoding.md R59, 60_exceptions.md R125): raised by `transact` for a
  transaction to the chip with register address 0x0B to 0xFF. Safe: the spec gives it no meaning. -/
  | reservedRegister (reg : Byte)
  /-- BadOperand (60_exceptions.md R125): raised by `hostTurn` and `runOp` for a host operation given an
  operand outside its type. Safe: the spec gives it no meaning. -/
  | badOperand (op : HostOp)
deriving DecidableEq, Repr

/-- What the machine declines. -/
inductive Refusal where
  /-- An instruction without a meaning yet. No arm of `exec` answers it. Safe. -/
  | notModelled (mnemonic : String)
  /-- Raised by `transact` for a frame that is no transaction of 30_encoding.md R53: shorter than a header,
  a write that asks bytes back, or a read that carries data. Safe (log entry 10). -/
  | notATransaction
deriving DecidableEq, Repr

/-- The chip's registers at power-on (10_state.md R15, 70_reset_and_hazards.md R136) and PTR (R137).
PREV stands at zero here; reset then gives it the comparator input. -/
def Chip.powerOn : Chip where
  iodir := 0xFF
  ipol := 0x00
  gpinten := 0x00
  defval := 0x00
  intcon := 0x00
  iocon := 0x00
  gppu := 0x00
  intf := 0x00
  intcap := 0x00
  olat := 0x00
  ptr := 0x00
  prev := 0x00

/-- A host driver just created: every shadow slot NONE (10_state.md R36); the address before `begin` is
the device base 0x20 (log entry 4, DESIGN CHOICE). -/
def HostSide.fresh : HostSide where
  addr := 0x20
  mode := Vector.replicate 8 .none

/-- The environment does nothing to a transaction. -/
def BusCond.quiet : BusCond := ⟨none, []⟩

/-- The machine right after reset: the chip's registers as 10_state.md R15 gives them, every pin driven
low (log entry 3, DESIGN CHOICE), so that PREV, the comparator input at reset (R137), is 0x00; one idle
host driver with one context; nothing scheduled. -/
def State.reset : State where
  cfg := .default
  chip := .powerOn
  ext := Vector.replicate 8 .low
  drivers := [⟨.fresh, [⟨[], none, []⟩]⟩]
  replies := []
  schedule := []
  busEnv := []
  draws := 0

end Sys2Proof.Machine
end

