-- ==== Sys2Proof/Machine/Operands.lean ====
section
/-! DEFINITION. The operand forms: bits and masks of a byte (00_scope.md R6, R10), pin indices
(40_register_access.md R90), device addresses (20_memory.md R40, 70_reset_and_hazards.md R139), the codes
of the trigger modes (10_state.md R36), and the pointer's successor (40_register_access.md R66). -/

namespace Sys2Proof.Machine

/-- Bit `p` of a byte, `((v >> p) & 1) == 1` (R10). -/
def bitOf (v : Byte) (p : Pin) : Bool := v.getLsbD p.val

/-- The mask `1 << p` (R6). -/
def maskOf (p : Pin) : Byte := 1#8 <<< p.val

/-- The byte whose bit `p` is `f p` (10_state.md R16). -/
def packPins (f : Pin → Bool) : Byte :=
  .cons (f 7) (.cons (f 6) (.cons (f 5) (.cons (f 4) (.cons (f 3) (.cons (f 2) (.cons (f 1)
    (.cons (f 0) .nil)))))))

/-- `x` with bit `p` set to `v` (40_register_access.md R93). -/
def withBit (x : Byte) (p : Pin) (v : Bool) : Byte :=
  if v then x ||| maskOf p else x &&& ~~~ maskOf p

/-- The pin an index names; none outside 0 to 7 (R90). -/
def pinOf (p : Int) : Option Pin :=
  if h : 0 ≤ p ∧ p ≤ 7 then some ⟨p.toNat, by omega⟩ else none

/-- The device address the chip answers: 0x20 | P_STRAP (20_memory.md R40). -/
def devAddr (s : State) : DevAddr := 0x20 ||| s.cfg.strap.setWidth 7

/-- The device address a strap value resolves to, clamped to 0 to 7 (R139). -/
def resolveAddr (strap : Nat) : DevAddr :=
  0x20 ||| BitVec.ofNat 7 (if strap > 7 then 7 else strap)

/-- The 3-bit code of a trigger mode (10_state.md R36). -/
def modeCode : TrigMode → BitVec 3
  | .none => 0
  | .rising => 1
  | .falling => 2
  | .change => 3
  | .levelHigh => 4
  | .levelLow => 5

/-- The trigger mode of a code; none for 6 and 7 (R36). -/
def modeOfCode (m : BitVec 3) : Option TrigMode :=
  match m.toNat with
  | 0 => some .none
  | 1 => some .rising
  | 2 => some .falling
  | 3 => some .change
  | 4 => some .levelHigh
  | 5 => some .levelLow
  | _ => none

/-- The position of a named IOCON field (10_state.md R22). -/
def fieldBit (c : Params) : CfgField → Pin
  | .intpol => c.bitIntpol
  | .odr => c.bitOdr
  | .disslw => c.bitDisslw
  | .seqop => c.bitSeqop

/-- The register at the next address, for the addresses below 0x0A. -/
def succReg : Reg → Option Reg
  | .iodir => some .ipol
  | .ipol => some .gpinten
  | .gpinten => some .defval
  | .defval => some .intcon
  | .intcon => some .iocon
  | .iocon => some .gppu
  | .gppu => some .intf
  | .intf => some .intcap
  | .intcap => some .gpio
  | .gpio => some .olat
  | .olat => none

/-- NextPtr (R66), read off IOCON as the access just made leaves it. -/
def nextReg (s : State) (r : Reg) : Reg :=
  if bitOf s.chip.iocon s.cfg.bitSeqop then r
  else match succReg r with
    | some r' => r'
    | none => s.cfg.seqWrap

end Sys2Proof.Machine
end

