-- ==== Sys2Proof/Machine/Ops.lean ====
section
/-! DEFINITION. The named operations on the state: its updates; the level and sampling of the pins
(10_state.md R31, R32); the latch, which is the block's only counterpart of taking an exception
(60_exceptions.md R129), and its release (42_interrupt_comparator.md R106, 60_exceptions.md R130). -/

namespace Sys2Proof.Machine

def State.setChip (s : State) (c : Chip) : State := { s with chip := c }

/-- PTR <- r. -/
def State.setPtr (s : State) (r : Reg) : State := s.setChip { s.chip with ptr := r.addr }

def State.setExt (s : State) (e : Ext) : State := { s with ext := e }

def State.setDrivers (s : State) (ds : List Driver) : State := { s with drivers := ds }

/-- A reply is delivered. -/
def State.pushReply (s : State) (r : Reply) : State := { s with replies := r :: s.replies }

def State.setSchedule (s : State) (ts : List Turn) : State := { s with schedule := ts }

/-- Driver number `d` becomes `drv`. -/
def State.setDriver (s : State) (d : Nat) (drv : Driver) : State := s.setDrivers (s.drivers.set d drv)

/-- One sample has used up its draws (10_state.md R31: the next one draws anew). -/
def State.tick (s : State) : State := { s with draws := s.draws + 1 }

/-- What the environment does to the next transaction addressed to the chip. -/
def State.busCond (s : State) : BusCond := s.busEnv.headD .quiet

/-- That transaction is under way; what the environment does to the one after it comes next. -/
def State.takeBusCond (s : State) : State := { s with busEnv := s.busEnv.tail }

/-- The draw of the next sample for pin `p`: a free value. -/
def drawBit (s : State) (p : Pin) : Bool := bitOf (Config.drawByte s.draws) p

/-- PinLevel (10_state.md R31). -/
def pinLevel (s : State) (p : Pin) : Bool :=
  if bitOf s.chip.iodir p then
    match s.ext[p] with
    | .high => true
    | .low => false
    | .undriven => if bitOf s.chip.gppu p then true else drawBit s p
  else
    match s.ext[p] with
    | .undriven => bitOf s.chip.olat p
    | .high | .low => drawBit s p

/-- The levels of all eight pins at one instant. -/
def levels (s : State) : Byte := packPins (pinLevel s)

/-- Sample: the read value V of the pins, level after input polarity (R32). -/
def sample (s : State) : Byte := levels s ^^^ s.chip.ipol

/-- The latch: INTF takes the flags of the pins whose condition holds and INTCAP the comparator input
(42_interrupt_comparator.md R104). Nothing else is saved and control goes nowhere (60_exceptions.md R129). -/
def latch (flags input : Byte) (c : Chip) : Chip := { c with intf := flags, intcap := input }

/-- ClearLatch: INTF <- 0x00, INTCAP and PREV stay (42_interrupt_comparator.md R106). -/
def clearLatch (c : Chip) : Chip := { c with intf := 0x00 }

end Sys2Proof.Machine
end

