-- ==== Sys2Proof/Machine/Flags.lean ====
section
/-! DEFINITION. The flags: the comparator that sets INTF and INTCAP (42_interrupt_comparator.md R102 to
R105), the environment step (R107), the interrupt output (R108), chip reset (70_reset_and_hazards.md R136 to
R138), and the host's qualification of flags (43_interrupt_operations.md R115, R116). -/

namespace Sys2Proof.Machine

/-- CmpInput (R102). -/
def cmpInput (s : State) : Byte :=
  if s.cfg.cmpPostIpol then sample s else levels s

/-- The condition of one pin under comparator input `input` (R103). -/
def condBit (c : Chip) (input : Byte) (p : Pin) : Bool :=
  bitOf c.gpinten p &&
    (if bitOf c.intcon p then bitOf input p != bitOf c.defval p
     else bitOf input p != bitOf c.prev p)

/-- Cond(C), all eight pins (R103, R111). -/
def cond (c : Chip) (input : Byte) : Byte := packPins (condBit c input)

/-- What an evaluation under comparator input `input` does to INTF and INTCAP (R104). -/
def latchStep (accumulate : Bool) (input : Byte) (c : Chip) : Chip :=
  let flags := cond c input
  if c.intf = 0x00 then
    if flags = 0x00 then c else latch flags input c
  else if accumulate then { c with intf := c.intf ||| flags } else c

/-- Evaluate (R104): the latch, then PREV <- C. The sample it takes uses up its draws. -/
def evaluate (s : State) : State :=
  let input := cmpInput s
  (s.setChip { latchStep s.cfg.intfAccumulate input s.chip with prev := input }).tick

/-- EnvStep (R107). -/
def envStep (s : State) (e : Ext) : State := evaluate (s.setExt e)

/-- Several environment steps in order (20_memory.md R44). -/
def envSteps (s : State) (es : List Ext) : State := es.foldl envStep s

/-- The electrical state of the interrupt output (R108). -/
inductive OutputLevel where
  | drivenLow | drivenHigh | highImpedance
deriving DecidableEq, Repr

/-- IntPin (R108). It has no storage (10_state.md R35) and no step reads it. -/
def intPin (s : State) : OutputLevel :=
  let active := s.chip.intf != 0x00
  if bitOf s.chip.iocon s.cfg.bitOdr then
    if active then .drivenLow else .highImpedance
  else if bitOf s.chip.iocon s.cfg.bitIntpol then
    if active then .drivenHigh else .drivenLow
  else
    if active then .drivenLow else .drivenHigh

/-- Power-on or external reset of the chip (R136, R137, R138): the registers and PTR take their reset
values and PREV the comparator input with them; EXT and the host's state stay; no latch is made. -/
def chipReset (s : State) : State :=
  let s0 := s.setChip .powerOn
  (s0.setChip { s0.chip with prev := cmpInput s0 }).tick

/-- Qualify (43_interrupt_operations.md R115). -/
def qualify (m : TrigMode) (captured : Bool) : Bool :=
  match m with
  | .none => false
  | .rising => captured
  | .falling => !captured
  | .change => true
  | .levelHigh => true
  | .levelLow => true

/-- The mask evaluatePendingInterrupts returns: the pending pins that qualify (R116). -/
def qualifiedMask (mode : Vector TrigMode 8) (pending captured : Byte) : Byte :=
  packPins fun p => bitOf pending p && qualify mode[p] (bitOf captured p)

end Sys2Proof.Machine
end

