-- ==== Sys2Proof/Machine/RegisterAccess.lean ====
section
/-! DEFINITION. The one-byte access of each register access form (40_register_access.md R68 to R89), without
the evaluation that follows it. -/

namespace Sys2Proof.Machine

/-- R68. -/
def putIodir (b : Byte) (s : State) : State := s.setChip { s.chip with iodir := b }
/-- R70. -/
def putIpol (b : Byte) (s : State) : State := s.setChip { s.chip with ipol := b }
/-- R72. -/
def putGpinten (b : Byte) (s : State) : State := s.setChip { s.chip with gpinten := b }
/-- R74. -/
def putDefval (b : Byte) (s : State) : State := s.setChip { s.chip with defval := b }
/-- R76. -/
def putIntcon (b : Byte) (s : State) : State := s.setChip { s.chip with intcon := b }
/-- R78: only the implemented bits are stored (10_state.md R23). -/
def putIocon (b : Byte) (s : State) : State := s.setChip { s.chip with iocon := b &&& s.cfg.implMask }
/-- R80. -/
def putGppu (b : Byte) (s : State) : State := s.setChip { s.chip with gppu := b }
/-- R82: the byte is accepted and discarded. -/
def putIntf (_b : Byte) (s : State) : State := s
/-- R84: the byte is accepted and discarded. -/
def putIntcap (_b : Byte) (s : State) : State := s
/-- R86: the byte goes to OLAT. -/
def putGpio (b : Byte) (s : State) : State := s.setChip { s.chip with olat := b }
/-- R88. -/
def putOlat (b : Byte) (s : State) : State := s.setChip { s.chip with olat := b }

/-- R69. -/
def getIodir (s : State) : Byte × State := (s.chip.iodir, s)
/-- R71. -/
def getIpol (s : State) : Byte × State := (s.chip.ipol, s)
/-- R73. -/
def getGpinten (s : State) : Byte × State := (s.chip.gpinten, s)
/-- R75. -/
def getDefval (s : State) : Byte × State := (s.chip.defval, s)
/-- R77. -/
def getIntcon (s : State) : Byte × State := (s.chip.intcon, s)
/-- R79. -/
def getIocon (s : State) : Byte × State := (s.chip.iocon, s)
/-- R81. -/
def getGppu (s : State) : Byte × State := (s.chip.gppu, s)
/-- R83: the read does not clear the latch. -/
def getIntf (s : State) : Byte × State := (s.chip.intf, s)
/-- R85: the capture, and the latch is cleared. -/
def getIntcap (s : State) : Byte × State := (s.chip.intcap, s.setChip (clearLatch s.chip))
/-- R87: the sampled pins; the latch is cleared when P_GPIO_READ_CLEARS. The sample uses up its draws. -/
def getGpio (s : State) : Byte × State :=
  (sample s, (if s.cfg.gpioReadClears then s.setChip (clearLatch s.chip) else s).tick)
/-- R89. -/
def getOlat (s : State) : Byte × State := (s.chip.olat, s)

/-- MemWrite at the address of a register (00_scope.md R8). -/
def memWrite (r : Reg) (b : Byte) (s : State) : State :=
  match r with
  | .iodir => putIodir b s
  | .ipol => putIpol b s
  | .gpinten => putGpinten b s
  | .defval => putDefval b s
  | .intcon => putIntcon b s
  | .iocon => putIocon b s
  | .gppu => putGppu b s
  | .intf => putIntf b s
  | .intcap => putIntcap b s
  | .gpio => putGpio b s
  | .olat => putOlat b s

/-- MemRead at the address of a register, with its side effects (R8). -/
def memRead (r : Reg) (s : State) : Byte × State :=
  match r with
  | .iodir => getIodir s
  | .ipol => getIpol s
  | .gpinten => getGpinten s
  | .defval => getDefval s
  | .intcon => getIntcon s
  | .iocon => getIocon s
  | .gppu => getGppu s
  | .intf => getIntf s
  | .intcap => getIntcap s
  | .gpio => getGpio s
  | .olat => getOlat s

end Sys2Proof.Machine
end

