-- ==== Sys2Proof/Machine/Transaction.lean ====
section
/-! DEFINITION. The execution of a transaction addressed by its header (40_register_access.md R64 to R67):
the device check, the pointer, the accesses each with its evaluation and pointer advance, the
environment steps between accesses (20_memory.md R44), and a bus failure. -/

namespace Sys2Proof.Machine

/-- The end of an access at register `r`: Evaluate, then PTR <- NextPtr (R64, R65). -/
def finishAccess (r : Reg) (s : State) : State :=
  let s1 := evaluate s
  s1.setPtr (nextReg s1 r)

/-- The accesses of a write from register `r` on; the environment's steps follow each access. -/
def writeLoop (r : Reg) (data : List Byte) (gaps : List (List Ext)) (s : State) : State :=
  match data with
  | [] => s
  | b :: bs =>
    let s1 := finishAccess r (memWrite r b s)
    writeLoop (nextReg s1 r) bs gaps.tail (envSteps s1 (gaps.headD []))

/-- The accesses of a read of `n` bytes from register `r` on, and the bytes they return. -/
def readLoop (r : Reg) (n : Nat) (gaps : List (List Ext)) (s : State) : List Byte × State :=
  match n with
  | 0 => ([], s)
  | n + 1 =>
    let out := memRead r s
    let s1 := finishAccess r out.2
    let rest := readLoop (nextReg s1 r) n gaps.tail (envSteps s1 (gaps.headD []))
    (out.1 :: rest.1, rest.2)

/-- PTR at the start of a transaction whose failure performs `k` accesses (R67). -/
def failedStart (r : Reg) (f : BusFailure) (k : Nat) (s : State) : State :=
  if k = 0 ∧ f.ptrSet = false then s else s.setPtr r

/-- `WR(dev, reg, data)` for an implemented register (R64), or as much of it as a bus failure leaves
performed (R67). -/
def writeTransaction (dev : DevAddr) (r : Reg) (data : List Byte) (s : State) :
    Host.Outcome State Fault Refusal :=
  if dev = devAddr s then
    let c := s.busCond
    let s0 := s.takeBusCond
    match c.failure with
    | none => .next ((writeLoop r data c.gaps (s0.setPtr r)).pushReply .ok)
    | some f =>
      let k := min f.after data.length
      .next ((writeLoop r (data.take k) c.gaps (failedStart r f k s0)).pushReply .busError)
  else .next (s.pushReply .busError)

/-- `RD(dev, reg, n)` for an implemented register (R65), or as much of it as a bus failure leaves
performed (R67). -/
def readTransaction (dev : DevAddr) (r : Reg) (n : Nat) (s : State) :
    Host.Outcome State Fault Refusal :=
  if dev = devAddr s then
    let c := s.busCond
    let s0 := s.takeBusCond
    match c.failure with
    | none =>
      let out := readLoop r n c.gaps (s0.setPtr r)
      .next (out.2.pushReply (.bytes out.1))
    | some f =>
      let k := min f.after n
      .next ((readLoop r k c.gaps (failedStart r f k s0)).2.pushReply .busError)
  else .next (s.pushReply .busError)

end Sys2Proof.Machine
end

