-- ==== Sys2Proof/Machine/ReadForms.lean ====
section
/-! DEFINITION. The read forms (40_register_access.md R69 to R89): the meaning of each is the read
transaction (R65) whose first access is at its register. -/

namespace Sys2Proof.Machine

/-- RD.IODIR (R69). -/
def execRdIodir (dev : DevAddr) (count : Nat) (s : State) : Host.Outcome State Fault Refusal :=
  readTransaction dev .iodir count s

/-- RD.IPOL (R71). -/
def execRdIpol (dev : DevAddr) (count : Nat) (s : State) : Host.Outcome State Fault Refusal :=
  readTransaction dev .ipol count s

/-- RD.GPINTEN (R73). -/
def execRdGpinten (dev : DevAddr) (count : Nat) (s : State) : Host.Outcome State Fault Refusal :=
  readTransaction dev .gpinten count s

/-- RD.DEFVAL (R75). -/
def execRdDefval (dev : DevAddr) (count : Nat) (s : State) : Host.Outcome State Fault Refusal :=
  readTransaction dev .defval count s

/-- RD.INTCON (R77). -/
def execRdIntcon (dev : DevAddr) (count : Nat) (s : State) : Host.Outcome State Fault Refusal :=
  readTransaction dev .intcon count s

/-- RD.IOCON (R79). -/
def execRdIocon (dev : DevAddr) (count : Nat) (s : State) : Host.Outcome State Fault Refusal :=
  readTransaction dev .iocon count s

/-- RD.GPPU (R81). -/
def execRdGppu (dev : DevAddr) (count : Nat) (s : State) : Host.Outcome State Fault Refusal :=
  readTransaction dev .gppu count s

/-- RD.INTF (R83). -/
def execRdIntf (dev : DevAddr) (count : Nat) (s : State) : Host.Outcome State Fault Refusal :=
  readTransaction dev .intf count s

/-- RD.INTCAP (R85). -/
def execRdIntcap (dev : DevAddr) (count : Nat) (s : State) : Host.Outcome State Fault Refusal :=
  readTransaction dev .intcap count s

/-- RD.GPIO (R87). -/
def execRdGpio (dev : DevAddr) (count : Nat) (s : State) : Host.Outcome State Fault Refusal :=
  readTransaction dev .gpio count s

/-- RD.OLAT (R89). -/
def execRdOlat (dev : DevAddr) (count : Nat) (s : State) : Host.Outcome State Fault Refusal :=
  readTransaction dev .olat count s

end Sys2Proof.Machine
end

