-- ==== Sys2Proof/Machine/WriteForms.lean ====
section
/-! DEFINITION. The write forms (40_register_access.md R68 to R88): the meaning of each is the write
transaction (R64) whose first access is at its register. -/

namespace Sys2Proof.Machine

/-- WR.IODIR (R68). -/
def execWrIodir (dev : DevAddr) (data : List Byte) (s : State) : Host.Outcome State Fault Refusal :=
  writeTransaction dev .iodir data s

/-- WR.IPOL (R70). -/
def execWrIpol (dev : DevAddr) (data : List Byte) (s : State) : Host.Outcome State Fault Refusal :=
  writeTransaction dev .ipol data s

/-- WR.GPINTEN (R72). -/
def execWrGpinten (dev : DevAddr) (data : List Byte) (s : State) : Host.Outcome State Fault Refusal :=
  writeTransaction dev .gpinten data s

/-- WR.DEFVAL (R74). -/
def execWrDefval (dev : DevAddr) (data : List Byte) (s : State) : Host.Outcome State Fault Refusal :=
  writeTransaction dev .defval data s

/-- WR.INTCON (R76). -/
def execWrIntcon (dev : DevAddr) (data : List Byte) (s : State) : Host.Outcome State Fault Refusal :=
  writeTransaction dev .intcon data s

/-- WR.IOCON (R78). -/
def execWrIocon (dev : DevAddr) (data : List Byte) (s : State) : Host.Outcome State Fault Refusal :=
  writeTransaction dev .iocon data s

/-- WR.GPPU (R80). -/
def execWrGppu (dev : DevAddr) (data : List Byte) (s : State) : Host.Outcome State Fault Refusal :=
  writeTransaction dev .gppu data s

/-- WR.INTF (R82). -/
def execWrIntf (dev : DevAddr) (data : List Byte) (s : State) : Host.Outcome State Fault Refusal :=
  writeTransaction dev .intf data s

/-- WR.INTCAP (R84). -/
def execWrIntcap (dev : DevAddr) (data : List Byte) (s : State) : Host.Outcome State Fault Refusal :=
  writeTransaction dev .intcap data s

/-- WR.GPIO (R86). -/
def execWrGpio (dev : DevAddr) (data : List Byte) (s : State) : Host.Outcome State Fault Refusal :=
  writeTransaction dev .gpio data s

/-- WR.OLAT (R88). -/
def execWrOlat (dev : DevAddr) (data : List Byte) (s : State) : Host.Outcome State Fault Refusal :=
  writeTransaction dev .olat data s

end Sys2Proof.Machine
end

