-- ==== Sys2Proof/Machine/Dispatch.lean ====
section
/-! DEFINITION. One arm for each form of the opcode table. -/

namespace Sys2Proof.Machine

def exec (i : Instr) (s : State) : Host.Outcome State Fault Refusal :=
  match i with
  | .wrIodir dev data => Sys2Proof.Machine.execWrIodir dev data s
  | .rdIodir dev count => Sys2Proof.Machine.execRdIodir dev count s
  | .wrIpol dev data => Sys2Proof.Machine.execWrIpol dev data s
  | .rdIpol dev count => Sys2Proof.Machine.execRdIpol dev count s
  | .wrGpinten dev data => Sys2Proof.Machine.execWrGpinten dev data s
  | .rdGpinten dev count => Sys2Proof.Machine.execRdGpinten dev count s
  | .wrDefval dev data => Sys2Proof.Machine.execWrDefval dev data s
  | .rdDefval dev count => Sys2Proof.Machine.execRdDefval dev count s
  | .wrIntcon dev data => Sys2Proof.Machine.execWrIntcon dev data s
  | .rdIntcon dev count => Sys2Proof.Machine.execRdIntcon dev count s
  | .wrIocon dev data => Sys2Proof.Machine.execWrIocon dev data s
  | .rdIocon dev count => Sys2Proof.Machine.execRdIocon dev count s
  | .wrGppu dev data => Sys2Proof.Machine.execWrGppu dev data s
  | .rdGppu dev count => Sys2Proof.Machine.execRdGppu dev count s
  | .wrIntf dev data => Sys2Proof.Machine.execWrIntf dev data s
  | .rdIntf dev count => Sys2Proof.Machine.execRdIntf dev count s
  | .wrIntcap dev data => Sys2Proof.Machine.execWrIntcap dev data s
  | .rdIntcap dev count => Sys2Proof.Machine.execRdIntcap dev count s
  | .wrGpio dev data => Sys2Proof.Machine.execWrGpio dev data s
  | .rdGpio dev count => Sys2Proof.Machine.execRdGpio dev count s
  | .wrOlat dev data => Sys2Proof.Machine.execWrOlat dev data s
  | .rdOlat dev count => Sys2Proof.Machine.execRdOlat dev count s

end Sys2Proof.Machine
end

