-- ==== Sys2Proof/Machine/Bus.lean ====
section
/-! DEFINITION. A transaction on the bus: its frame is decoded and the instruction it is is run; what is
none of the 22 forms ends as 30_encoding.md R58 and R59 say. -/

namespace Sys2Proof.Machine

/-- A transaction that the chip does not acknowledge when it names another device (R58), whatever the
rest of it; `own` is its outcome when it names the chip. -/
def unlessForeign (dev : DevAddr) (s : State) (own : Host.Outcome State Fault Refusal) :
    Host.Outcome State Fault Refusal :=
  if dev = devAddr s then own else .next (s.pushReply .busError)

/-- One transaction on the bus (60_exceptions.md R126: device address, then register address, then the
accesses). -/
def transact (f : Frame) (s : State) : Host.Outcome State Fault Refusal :=
  match decode f with
  | .ok i => exec i s
  | .error (.foreignDevice _) => .next (s.pushReply .busError)
  | .error (.reservedRegister dev reg) => unlessForeign dev s (.fault (.reservedRegister reg))
  | .error (.writeWithCount dev) => unlessForeign dev s (.refused .notATransaction)
  | .error (.readWithData dev) => unlessForeign dev s (.refused .notATransaction)
  | .error .noHeader => .refused .notATransaction

end Sys2Proof.Machine
end

