-- ==== Sys2Proof/Machine/HostOps.lean ====
section
/-! DEFINITION. The host operations (30_encoding.md R61): what each does on the host before its first
transaction and the transactions it expands into (40_register_access.md R90 to R94, 41_pin_operations.md
R95 to R101, 43_interrupt_operations.md R113 to R122, 70_reset_and_hazards.md R139). -/

namespace Sys2Proof.Machine

/-- How a host operation starts: an operand is outside its type (60_exceptions.md R125); it returns at
once and changes nothing (40_register_access.md R90); or the host's state becomes `h` and transactions
follow. -/
inductive Launch where
  | bad
  | returns (r : OpResult)
  | runs (h : HostSide) (k : Script)
deriving DecidableEq, Repr

/-- The pin bounds check (R90), made before everything else (60_exceptions.md R126). `sentinel` is what
the operation returns under SILENT. -/
def checkPin (cfg : Params) (p : Int) (sentinel : OpResult) (go : Pin → Launch) : Launch :=
  match pinOf p with
  | some q => go q
  | none =>
    match cfg.invalidPin with
    | .silent => .returns sentinel
    | .explicit => .returns .invalidPin

/-- The check of an operand's type (60_exceptions.md R125). -/
def checkArg {α : Type} (a : Arg α) (go : α → Launch) : Launch :=
  match a with
  | .val x => go x
  | .bad _ => .bad

/-- readRegister (R91). -/
def launchReadRegister (h : HostSide) (a : Byte) : Launch := .runs h (.read a .byte)

/-- writeRegister (R92). -/
def launchWriteRegister (h : HostSide) (a b : Byte) : Launch := .runs h (.write a b (.done .ok))

/-- setBit (R93). -/
def launchSetBit (cfg : Params) (h : HostSide) (a : Byte) (p : Int) (v : Bool) : Launch :=
  checkPin cfg p .ok fun q => .runs h (.rmw a q v (.done .ok))

/-- setDirection (R95). -/
def launchSetDirection (cfg : Params) (h : HostSide) (p : Int) (d : Arg Direction) : Launch :=
  checkPin cfg p .ok fun _ => checkArg d fun x =>
    launchSetBit cfg h Reg.iodir.addr p (decide (x = .input))

/-- writePin (R96): OLAT is read and written. -/
def launchWritePin (cfg : Params) (h : HostSide) (p : Int) (high : Arg Bool) : Launch :=
  checkPin cfg p .ok fun _ => checkArg high fun x => launchSetBit cfg h Reg.olat.addr p x

/-- readPin (R97): the only read-type pin operation, with sentinel LOW (R90). -/
def launchReadPin (cfg : Params) (h : HostSide) (p : Int) : Launch :=
  checkPin cfg p (.level false) fun q => .runs h (.read Reg.gpio.addr (.pin q))

/-- setPullUp (R98). -/
def launchSetPullUp (cfg : Params) (h : HostSide) (p : Int) (e : Bool) : Launch :=
  launchSetBit cfg h Reg.gppu.addr p e

/-- setInputPolarity (R99). -/
def launchSetInputPolarity (cfg : Params) (h : HostSide) (p : Int) (i : Bool) : Launch :=
  launchSetBit cfg h Reg.ipol.addr p i

/-- readPort (R100). -/
def launchReadPort (h : HostSide) : Launch := launchReadRegister h Reg.gpio.addr

/-- writePort (R101). -/
def launchWritePort (h : HostSide) (b : Byte) : Launch := launchWriteRegister h Reg.gpio.addr b

/-- disableInterrupt (R114): the shadow slot first, then the enable bit. -/
def launchDisableInterrupt (cfg : Params) (h : HostSide) (p : Int) : Launch :=
  checkPin cfg p .ok fun q =>
    .runs { h with mode := h.mode.set q .none } (.rmw Reg.gpinten.addr q false (.done .ok))

/-- A level mode, which compares against DEFVAL (R112). -/
def isLevelMode : TrigMode → Bool
  | .levelHigh | .levelLow => true
  | .none | .rising | .falling | .change => false

/-- The transactions of enableInterrupt for a mode other than NONE (R113): GPINTEN, INTCON, and for a
level mode DEFVAL. -/
def enableScript (q : Pin) (m : TrigMode) : Script :=
  .rmw Reg.gpinten.addr q true (.rmw Reg.intcon.addr q (isLevelMode m)
    (if isLevelMode m then .rmw Reg.defval.addr q (decide (m = .levelLow)) (.done .ok)
     else .done .ok))

/-- enableInterrupt (R113): bounds, then the mode code, then the shadow, then the transactions; with NONE
it is disableInterrupt. -/
def launchEnableInterrupt (cfg : Params) (h : HostSide) (p : Int) (code : BitVec 3) : Launch :=
  checkPin cfg p .ok fun q =>
    match modeOfCode code with
    | none => .bad
    | some m =>
      if m = .none then launchDisableInterrupt cfg h p
      else .runs { h with mode := h.mode.set q m } (enableScript q m)

/-- evaluatePendingInterrupts (R116). -/
def launchEvaluatePending (h : HostSide) : Launch := .runs h .readPending

/-- setConfigField (R118). -/
def launchSetConfigField (cfg : Params) (h : HostSide) (f : Arg CfgField) (v : Bool) : Launch :=
  checkArg f fun x => .runs h (.rmw Reg.iocon.addr (fieldBit cfg x) v (.done .ok))

/-- getConfigField (R118). -/
def launchGetConfigField (cfg : Params) (h : HostSide) (f : Arg CfgField) : Launch :=
  checkArg f fun x => .runs h (.read Reg.iocon.addr (.field (fieldBit cfg x)))

/-- setInterruptPolarity (R119). -/
def launchSetInterruptPolarity (cfg : Params) (h : HostSide) (pol : Arg Polarity) : Launch :=
  checkArg pol fun x => launchSetConfigField cfg h (.val .intpol) (decide (x = .activeHigh))

/-- getInterruptPolarity (R120). -/
def launchGetInterruptPolarity (cfg : Params) (h : HostSide) : Launch :=
  .runs h (.read Reg.iocon.addr (.polarity (fieldBit cfg .intpol)))

/-- setInterruptDrive (R121). -/
def launchSetInterruptDrive (cfg : Params) (h : HostSide) (d : Arg DriveMode) : Launch :=
  checkArg d fun x => launchSetConfigField cfg h (.val .odr) (decide (x = .openDrain))

/-- getInterruptDrive (R122). -/
def launchGetInterruptDrive (cfg : Params) (h : HostSide) : Launch :=
  .runs h (.read Reg.iocon.addr (.drive (fieldBit cfg .odr)))

/-- The seven writes of begin, in its order (R139). -/
def beginScript : Script :=
  .write Reg.iodir.addr 0xFF (.write Reg.ipol.addr 0x00 (.write Reg.gpinten.addr 0x00
    (.write Reg.defval.addr 0x00 (.write Reg.intcon.addr 0x00 (.write Reg.gppu.addr 0x00
      (.write Reg.olat.addr 0x00 (.done .ok)))))))

/-- begin (R139): the address is resolved, the shadow cleared, then the writes. -/
def launchBegin (strap : Nat) : Launch :=
  .runs ⟨resolveAddr strap, Vector.replicate 8 .none⟩ beginScript

/-- The start of a host operation. -/
def launch (op : HostOp) (cfg : Params) (h : HostSide) : Launch :=
  match op with
  | .readRegister a => launchReadRegister h a
  | .writeRegister a b => launchWriteRegister h a b
  | .setBit a p v => launchSetBit cfg h a p v
  | .setDirection p d => launchSetDirection cfg h p d
  | .writePin p l => launchWritePin cfg h p l
  | .readPin p => launchReadPin cfg h p
  | .setPullUp p e => launchSetPullUp cfg h p e
  | .setInputPolarity p i => launchSetInputPolarity cfg h p i
  | .readPort => launchReadPort h
  | .writePort b => launchWritePort h b
  | .enableInterrupt p m => launchEnableInterrupt cfg h p m
  | .disableInterrupt p => launchDisableInterrupt cfg h p
  | .evaluatePendingInterrupts => launchEvaluatePending h
  | .setConfigField f v => launchSetConfigField cfg h f v
  | .getConfigField f => launchGetConfigField cfg h f
  | .setInterruptPolarity pol => launchSetInterruptPolarity cfg h pol
  | .getInterruptPolarity => launchGetInterruptPolarity cfg h
  | .setInterruptDrive d => launchSetInterruptDrive cfg h d
  | .getInterruptDrive => launchGetInterruptDrive cfg h
  | .beginOp strap => launchBegin strap

/-- What an operation makes of the byte it read (R91, R97, R118, R120, R122). -/
def useByte (u : ReadUse) (x : Byte) : OpResult :=
  match u with
  | .byte => .byte x
  | .pin p => .level (bitOf x p)
  | .field b => .flag (bitOf x b)
  | .polarity b => .polarity (if bitOf x b then .activeHigh else .activeLow)
  | .drive b => .drive (if bitOf x b then .openDrain else .activeDriver)

/-- The numeric code of a result (60_exceptions.md R124). -/
def resultCode : OpResult → Nat
  | .ok | .byte _ | .level _ | .flag _ | .polarity _ | .drive _ => 0
  | .busError => 1
  | .invalidPin => 2

/-- The single byte the last reply carries; none when the transaction failed. -/
def lastByte (s : State) : Option Byte :=
  match s.replies with
  | .bytes [x] :: _ => some x
  | _ => none

/-- The last reply is `ok`. -/
def lastOk (s : State) : Bool :=
  match s.replies with
  | .ok :: _ => true
  | _ => false

/-- Sequencing of outcomes: a fault or a refusal ends the run. -/
def andThen {α β : Type} (o : Host.Outcome α Fault Refusal) (f : α → Host.Outcome β Fault Refusal) :
    Host.Outcome β Fault Refusal :=
  match o with
  | .next a => f a
  | .fault r => .fault r
  | .refused r => .refused r

/-- A read transaction of one byte that a host operation issues to the address its driver has resolved
(10_state.md R37); no byte when it fails. -/
def busRead (h : HostSide) (a : Byte) (s : State) : Host.Outcome (State × Option Byte) Fault Refusal :=
  andThen (transact (.read h.addr a 1) s) fun t => .next (t, lastByte t)

/-- A write transaction of one byte that a host operation issues; false when it fails. -/
def busWrite (h : HostSide) (a b : Byte) (s : State) : Host.Outcome (State × Bool) Fault Refusal :=
  andThen (transact (.write h.addr a [b]) s) fun t => .next (t, lastOk t)

/-- The next move of an operation in progress: its next transaction, or the host's own work after the last
one. The first failed transaction ends it with BusError, and nothing is undone (40_register_access.md R94). -/
def scriptStep (h : HostSide) (k : Script) (s : State) : Host.Outcome (State × Script) Fault Refusal :=
  match k with
  | .done r => .next (s, .done r)
  | .write a b k' =>
    andThen (busWrite h a b s) fun t => .next (t.1, if t.2 then k' else .done .busError)
  | .rmw a p v k' =>
    andThen (busRead h a s) fun t => .next (t.1, match t.2 with
      | some x => .write a (withBit x p v) k'
      | none => .done .busError)
  | .read a u =>
    andThen (busRead h a s) fun t => .next (t.1, match t.2 with
      | some x => .done (useByte u x)
      | none => .done .busError)
  | .readPending =>
    andThen (busRead h Reg.intf.addr s) fun t => .next (t.1, match t.2 with
      | some x => .readCaptured x
      | none => .done .busError)
  | .readCaptured pending =>
    andThen (busRead h Reg.intcap.addr s) fun t => .next (t.1, match t.2 with
      | some x => .qualify pending x
      | none => .done .busError)
  | .qualify pending captured =>
    .next (s, .done (.byte (qualifiedMask h.mode pending captured)))

/-- An operation in progress carried to its end with no other move in between. -/
def runScript (h : HostSide) (k : Script) (s : State) : Host.Outcome (State × OpResult) Fault Refusal :=
  match k with
  | .done r => .next (s, r)
  | .write a b k' =>
    andThen (busWrite h a b s) fun t => if t.2 then runScript h k' t.1 else .next (t.1, .busError)
  | .rmw a p v k' =>
    andThen (busRead h a s) fun t => match t.2 with
      | some x => andThen (busWrite h a (withBit x p v) t.1) fun u =>
          if u.2 then runScript h k' u.1 else .next (u.1, .busError)
      | none => .next (t.1, .busError)
  | .read a u =>
    andThen (busRead h a s) fun t => match t.2 with
      | some x => .next (t.1, useByte u x)
      | none => .next (t.1, .busError)
  | .readPending =>
    andThen (busRead h Reg.intf.addr s) fun t => match t.2 with
      | some x => andThen (busRead h Reg.intcap.addr t.1) fun u => match u.2 with
          | some y => .next (u.1, .byte (qualifiedMask h.mode x y))
          | none => .next (u.1, .busError)
      | none => .next (t.1, .busError)
  | .readCaptured pending =>
    andThen (busRead h Reg.intcap.addr s) fun u => match u.2 with
      | some y => .next (u.1, .byte (qualifiedMask h.mode pending y))
      | none => .next (u.1, .busError)
  | .qualify pending captured => .next (s, .byte (qualifiedMask h.mode pending captured))

/-- A host operation of a driver run from its call to its return with no other move in between: the state
and the driver's side it leaves, and its result. -/
def runOp (op : HostOp) (h : HostSide) (s : State) :
    Host.Outcome (State × HostSide × OpResult) Fault Refusal :=
  match launch op s.cfg h with
  | .bad => .fault (.badOperand op)
  | .returns r => .next (s, h, r)
  | .runs h' k => andThen (runScript h' k s) fun t => .next (t.1, h', t.2)

end Sys2Proof.Machine
end

