-- ==== Sys2Proof/Machine/Turns.lean ====
section
/-! DEFINITION. One entry of the serial order of events: a transaction, a move of a host context, an
environment step, a chip reset or a restart of the host's driver (00_scope.md R5, 20_memory.md R44 to R48). -/

namespace Sys2Proof.Machine

/-- A context after a move: an operation with nothing left to do returns its result. -/
def settle (ctx : Context) (k : Script) : Context :=
  match k with
  | .done r => { ctx with running := none, results := r :: ctx.results }
  | .write _ _ _ | .rmw _ _ _ _ | .read _ _ | .readPending | .readCaptured _ | .qualify _ _ =>
    { ctx with running := some k }

/-- A driver whose context `c` becomes `ctx`. -/
def Driver.setContext (drv : Driver) (c : Nat) (ctx : Context) : Driver :=
  { drv with contexts := drv.contexts.set c ctx }

/-- The next move of a context: it calls its next operation, or carries the one in progress one
transaction further. A context with nothing to do leaves the state alone. -/
def contextMove (d : Nat) (drv : Driver) (c : Nat) (ctx : Context) (s : State) :
    Host.Outcome State Fault Refusal :=
  match ctx.running with
  | some k =>
    andThen (scriptStep drv.side k s) fun t =>
      .next (t.1.setDriver d (drv.setContext c (settle ctx t.2)))
  | none =>
    match ctx.program with
    | [] => .next s
    | op :: ops =>
      let rest : Context := { ctx with program := ops }
      match launch op s.cfg drv.side with
      | .bad => .fault (.badOperand op)
      | .returns r => .next (s.setDriver d (drv.setContext c (settle rest (.done r))))
      | .runs h k =>
        .next (s.setDriver d (Driver.setContext { drv with side := h } c (settle rest k)))

/-- The next move of context `c` of driver `d`; where there is no such context, nothing happens. -/
def hostTurn (d c : Nat) (s : State) : Host.Outcome State Fault Refusal :=
  match s.drivers[d]? with
  | none => .next s
  | some drv =>
    match drv.contexts[c]? with
    | none => .next s
    | some ctx => contextMove d drv c ctx s

/-- A driver is destroyed and made anew: shadow and address are those of a new driver, and the operations
in progress are gone without a result (log entry 14). The chip is untouched. -/
def hostRestart (d : Nat) (s : State) : State :=
  match s.drivers[d]? with
  | none => s
  | some drv => s.setDriver d ⟨.fresh, drv.contexts.map fun ctx => { ctx with running := none }⟩

/-- One turn. -/
def takeTurn (t : Turn) (s : State) : Host.Outcome State Fault Refusal :=
  match t with
  | .direct f => transact f s
  | .host d c => hostTurn d c s
  | .environ e => .next (envStep s e)
  | .chipReset => .next (chipReset s)
  | .hostRestart d => .next (hostRestart d s)

/-- The next turn of the schedule. With none left the machine waits: the chip takes no step of its own
accord (R5). -/
def nextTurn (s : State) : Host.Outcome State Fault Refusal :=
  match s.schedule with
  | [] => .next s
  | t :: ts => takeTurn t (s.setSchedule ts)

/-- A transaction placed first in the schedule. -/
def placeDirect (f : Frame) (s : State) : State := s.setSchedule (.direct f :: s.schedule)

end Sys2Proof.Machine
end

