-- ==== Sys2Proof/Machine/Step.lean ====
section
/-! DEFINITION. One step of the machine, and the placing of one instruction where the next step takes it. -/

namespace Sys2Proof.Machine

/-- One step: the next turn of the serial order. -/
def step (s : State) : Host.Outcome State Fault Refusal := nextTurn s

/-- `s` with the transaction of a table word as its next turn (log entry 7). -/
def State.withFetchWord (s : State) (nbits w : Nat) : State := placeDirect (Frame.ofTableWord nbits w) s

end Sys2Proof.Machine
end

