-- ==== Sys2Proof/Safety.lean ====
section
/-! DEFINITION. What counts as a safe step, and the invariants of the machine, in the terms the statements
use. -/

namespace Sys2Proof.Machine

/-- The step neither faults nor is refused. -/
def Safe (o : Host.Outcome State Fault Refusal) : Prop := ∃ t, o = .next t

/-- IOCON holds implemented bits only (10_state.md R23) and the pointer an implemented address
(30_encoding.md R59). -/
def RegInv (s : State) : Prop :=
  s.chip.iocon &&& ~~~ s.cfg.implMask = 0x00 ∧ s.chip.ptr ≤ 0x0A

/-- No level condition stands unlatched (42_interrupt_comparator.md R109): while INTF is 0x00, the last sample
of every enabled pin that is compared against DEFVAL equals its DEFVAL bit. -/
def LevelsLatched (s : State) : Prop :=
  s.chip.intf = 0x00 → ∀ p : Pin, bitOf s.chip.gpinten p = true → bitOf s.chip.intcon p = true →
    bitOf s.chip.prev p = bitOf s.chip.defval p

end Sys2Proof.Machine
end

