-- ==== Sys2Proof/Certificates/Slice0/Obligations.lean ====
section
/-! DEFINITION. The statements for the provers. Each docstring names the rule or the section of spec/ it
formalises; where it rests on a decision or an inference the spec marks as its own, it says so. -/

namespace Sys2Proof.Machine

/-- The environment neither fails the next transaction nor acts inside it. -/
def Quiet (s : State) : Prop := s.busCond = .quiet

/-- The flags of 42_interrupt_comparator.md R103 as one formula on bytes: the enabled pins that differ
from their DEFVAL bit where INTCON is 1, from their PREV bit where it is 0. -/
def flagsOf (c : Chip) (x : Byte) : Byte :=
  c.gpinten &&& ((c.intcon &&& (x ^^^ c.defval)) ||| (~~~ c.intcon &&& (x ^^^ c.prev)))

/-- The chip after one evaluation under comparator input `x` (R104), as formulas on bytes. -/
def chipAfterEvaluation (accumulate : Bool) (x : Byte) (c : Chip) : Chip :=
  { c with
    intf := if c.intf = 0x00 then flagsOf c x else if accumulate then c.intf ||| flagsOf c x else c.intf
    intcap := if c.intf = 0x00 ∧ flagsOf c x ≠ 0x00 then x else c.intcap
    prev := x }

/-- The address the pointer has after an access at `r` (40_register_access.md R66). -/
def addressAfter (cfg : Params) (c : Chip) (r : Reg) : Byte :=
  if bitOf c.iocon cfg.bitSeqop then r.addr
  else if r.addr = 0x0A then cfg.seqWrap.addr else r.addr + 1

/-- The whole state after a transaction of one byte at `r`, begun in `s`, whose access leaves the chip `c`
with `n` samples taken: evaluation, pointer advance, one reply, and nothing else changed. -/
def afterOneByte (r : Reg) (reply : Reply) (c : Chip) (n : Nat) (s : State) : State :=
  { s with
    chip := { chipAfterEvaluation s.cfg.intfAccumulate (cmpInput { s with chip := c, draws := n }) c with
      ptr := addressAfter s.cfg c r }
    draws := n + 1
    busEnv := s.busEnv.tail
    replies := reply :: s.replies }

/-- The header of a form, `0x4000 | (P_STRAP << 9)` with the R bit and the register address of R57. -/
def formHeader (s : State) (rBit reg : Header) : Header :=
  0x4000 ||| (s.cfg.strap.setWidth 16 <<< 9) ||| rBit ||| reg

/-- A write form of one byte: its header, and the whole next state, where `put` is what the access does to
the chip. -/
def WritesOneByte (form : DevAddr → List Byte → Instr) (r : Reg) (reg : Header)
    (put : Params → Byte → Chip → Chip) : Prop :=
  ∀ (s : State) (b : Byte), Quiet s →
    (encode (form (devAddr s) [b])).header = formHeader s 0x0000 reg ∧
    exec (form (devAddr s) [b]) s = .next (afterOneByte r .ok (put s.cfg b s.chip) s.draws s)

/-- A read form of one byte that returns `val` and whose access changes nothing of the chip. -/
def ReadsStored (form : DevAddr → Nat → Instr) (r : Reg) (reg : Header) (val : Chip → Byte) : Prop :=
  ∀ s : State, Quiet s →
    (encode (form (devAddr s) 1)).header = formHeader s 0x0100 reg ∧
    exec (form (devAddr s) 1) s = .next (afterOneByte r (.bytes [val s.chip]) s.chip s.draws s)

/-- Two chips hold the same in every register a bus write can change. -/
def SameStorage (c d : Chip) : Prop :=
  c.iodir = d.iodir ∧ c.ipol = d.ipol ∧ c.gpinten = d.gpinten ∧ c.defval = d.defval ∧
  c.intcon = d.intcon ∧ c.iocon = d.iocon ∧ c.gppu = d.gppu ∧ c.olat = d.olat

/-- The stored byte of a plain storage register: one whose write stores the byte and whose read returns
it (40_register_access.md R68 to R81, R88, R89, without IOCON). -/
def plainStored : Reg → Option (Chip → Byte)
  | .iodir => some Chip.iodir
  | .ipol => some Chip.ipol
  | .gpinten => some Chip.gpinten
  | .defval => some Chip.defval
  | .intcon => some Chip.intcon
  | .gppu => some Chip.gppu
  | .olat => some Chip.olat
  | .iocon | .intf | .intcap | .gpio => none

/-- The bus is quiet for as long as an operation runs, and the driver addresses the chip. -/
def Reaches (h : HostSide) (s : State) : Prop := h.addr = devAddr s ∧ s.busEnv = []

/-- The transaction that the next move of an operation in progress issues (30_encoding.md R61); none where the
move is the host's own. -/
def scriptFrame (h : HostSide) : Script → Option Frame
  | .write a b _ => some (.write h.addr a [b])
  | .rmw a _ _ _ => some (.read h.addr a 1)
  | .read a _ => some (.read h.addr a 1)
  | .readPending => some (.read h.addr 0x07 1)
  | .readCaptured _ => some (.read h.addr 0x08 1)
  | .done _ | .qualify _ _ => none

/-- The transaction that a turn issues in a state; none where it issues none. -/
def turnFrame (u : Turn) (s : State) : Option Frame :=
  match u with
  | .direct f => some f
  | .host d c => s.drivers[d]?.bind fun drv => drv.contexts[c]?.bind fun ctx =>
      ctx.running.bind (scriptFrame drv.side)
  | .environ _ | .chipReset | .hostRestart _ => none

/-- The registers that a read of `n` bytes from `r` accesses, in order (40_register_access.md R66). -/
def readOrder (s : State) (r : Reg) : Nat → List Reg
  | 0 => []
  | n + 1 => r :: readOrder s (nextReg s r) n

/-- How many of its `n` accesses the next transaction performs (40_register_access.md R67). -/
def accessesMade (s : State) (n : Nat) : Nat :=
  match s.busCond.failure with
  | none => n
  | some f => min f.after n

/-- A read access of the register clears INTF (40_register_access.md R85, R87). -/
def clearsFlags (cfg : Params) : Reg → Bool
  | .intcap => true
  | .gpio => cfg.gpioReadClears
  | .iodir | .ipol | .gpinten | .defval | .intcon | .iocon | .gppu | .intf | .olat => false

/-- Where the instruction is a read that the chip answers, none of the accesses it performs clears INTF. -/
def ClearsNothing (i : Instr) (s : State) : Prop :=
  ∀ dev n r, i = readForm dev n r → dev = devAddr s →
    ∀ q ∈ readOrder s r (accessesMade s n), clearsFlags s.cfg q = false

end Sys2Proof.Machine

open Sys2Proof Sys2Proof.Machine

/-! ### Encoding -/

/-- 30_encoding.md R57: the headers of the opcode map at strap 0, and one strap each of T2, T3, T4 of
95_test_vectors.md. -/
def Obligations.OpcodeMapHeadersDecode : Prop :=
  decodeTableWord 16 0x4000 = some (.wrIodir 0x20 []) ∧ decodeTableWord 16 0x4100 = some (.rdIodir 0x20 0) ∧
  decodeTableWord 16 0x4001 = some (.wrIpol 0x20 []) ∧ decodeTableWord 16 0x4102 = some (.rdGpinten 0x20 0) ∧
  decodeTableWord 16 0x4003 = some (.wrDefval 0x20 []) ∧ decodeTableWord 16 0x4104 = some (.rdIntcon 0x20 0) ∧
  decodeTableWord 16 0x4A05 = some (.wrIocon 0x25 []) ∧ decodeTableWord 16 0x4106 = some (.rdGppu 0x20 0) ∧
  decodeTableWord 16 0x4007 = some (.wrIntf 0x20 []) ∧ decodeTableWord 16 0x4F08 = some (.rdIntcap 0x27 0) ∧
  decodeTableWord 16 0x4709 = some (.rdGpio 0x23 0) ∧ decodeTableWord 16 0x400A = some (.wrOlat 0x20 []) ∧
  decodeTableWord 16 0x410B = none ∧ decodeTableWord 16 0x8000 = none

/-- 30_encoding.md R57: a frame decodes to the write (read) form of a register exactly when its header under
mask 0xF1FF is 0x4000 (0x4100) with the register's address, and it asks no bytes back (carries no data). The
register's address is 10_state.md R15's. -/
def Obligations.DecoderIsTheOpcodeMap : Prop :=
  ∀ (h : Header) (data : List Byte) (n : Nat) (r : Reg) (dev : DevAddr),
    (∀ ds, decode ⟨headerBytes h ++ data, n⟩ = .ok (writeForm dev ds r) ↔
      h &&& 0xF1FF = 0x4000 ||| r.addr.setWidth 16 ∧ dev = h.extractLsb 15 9 ∧ ds = data ∧ n = 0) ∧
    (∀ k, decode ⟨headerBytes h ++ data, n⟩ = .ok (readForm dev k r) ↔
      h &&& 0xF1FF = 0x4100 ||| r.addr.setWidth 16 ∧ dev = h.extractLsb 15 9 ∧ k = n ∧ data = [])

/-- Decoding the encoding of a well-formed instruction gives it back: every form, every device address of
the family, every list of data bytes, every count (30_encoding.md §1, §2; the header is decision D4). -/
def Obligations.DecodeEncode : Prop :=
  ∀ i : Instr, i.WellFormed = true → decode (encode i) = .ok i

/-- Encoding what was decoded gives the frame back, and only well-formed instructions are decoded
(30_encoding.md §1, §2; the header is decision D4). -/
def Obligations.EncodeDecode : Prop :=
  ∀ (f : Frame) (i : Instr), decode f = .ok i → encode i = f ∧ i.WellFormed = true

/-! ### The write forms -/

/-- 40_register_access.md R68, WR.IODIR: `IODIR <- b`, then the evaluation and the pointer. Corner cases: a
pin that becomes an output is driven to its OLAT bit, or contended where the environment drives it. -/
def Obligations.WrIodirStoresDirection : Prop :=
  WritesOneByte .wrIodir .iodir 0x0000 (fun _ b c => { c with iodir := b }) ∧
  ∀ (s : State) (b : Byte) (p : Pin), bitOf b p = false →
    (s.ext[p] = .undriven → pinLevel { s with chip := { s.chip with iodir := b } } p = bitOf s.chip.olat p) ∧
    (s.ext[p] ≠ .undriven → pinLevel { s with chip := { s.chip with iodir := b } } p = drawBit s p)

/-- 40_register_access.md R74, WR.DEFVAL: `DEFVAL <- b`; it has no effect on a pin whose INTCON bit is 0. -/
def Obligations.WrDefvalStoresReference : Prop :=
  WritesOneByte .wrDefval .defval 0x0003 (fun _ b c => { c with defval := b }) ∧
  ∀ (c : Chip) (b x : Byte) (p : Pin), bitOf c.intcon p = false →
    bitOf (flagsOf { c with defval := b } x) p = bitOf (flagsOf c x) p

/-- 40_register_access.md R80, WR.GPPU: `GPPU <- b`; a floating input whose pull-up is on reads 1, and the
pull-up has no effect on an output or on a driven input. -/
def Obligations.WrGppuStoresPullUps : Prop :=
  WritesOneByte .wrGppu .gppu 0x0006 (fun _ b c => { c with gppu := b }) ∧
  ∀ (s : State) (b : Byte) (p : Pin),
    (bitOf s.chip.iodir p = true → s.ext[p] = .undriven → bitOf b p = true →
      pinLevel { s with chip := { s.chip with gppu := b } } p = true) ∧
    (bitOf s.chip.iodir p = false ∨ s.ext[p] ≠ .undriven →
      pinLevel { s with chip := { s.chip with gppu := b } } p = pinLevel s p)

/-- 40_register_access.md R86, WR.GPIO: `OLAT <- b`; the bits of input pins drive nothing, an output that
nothing else drives shows its bit. -/
def Obligations.WrGpioStoresOutputLatch : Prop :=
  WritesOneByte .wrGpio .gpio 0x0009 (fun _ b c => { c with olat := b }) ∧
  ∀ (s : State) (b : Byte) (p : Pin),
    (bitOf s.chip.iodir p = true →
      pinLevel { s with chip := { s.chip with olat := b } } p = pinLevel s p) ∧
    (bitOf s.chip.iodir p = false → s.ext[p] = .undriven →
      pinLevel { s with chip := { s.chip with olat := b } } p = bitOf b p)

/-- 40_register_access.md §2: WR.IPOL, WR.GPINTEN, WR.INTCON and WR.OLAT store the byte. -/
def Obligations.WrIpolGpintenIntconOlatStore : Prop :=
  WritesOneByte .wrIpol .ipol 0x0001 (fun _ b c => { c with ipol := b }) ∧
  WritesOneByte .wrGpinten .gpinten 0x0002 (fun _ b c => { c with gpinten := b }) ∧
  WritesOneByte .wrIntcon .intcon 0x0004 (fun _ b c => { c with intcon := b }) ∧
  WritesOneByte .wrOlat .olat 0x000A (fun _ b c => { c with olat := b })

/-- 40_register_access.md §2, WR.IOCON: only the bits of P_CFG_IMPL_MASK are stored (the spec's decision D7), and
the pointer advance that follows reads the new SEQOP bit. -/
def Obligations.WrIoconStoresImplementedBits : Prop :=
  WritesOneByte .wrIocon .iocon 0x0005 (fun cfg b c => { c with iocon := b &&& cfg.implMask })

/-- 40_register_access.md §2, WR.INTF and WR.INTCAP: the byte is accepted and discarded (the spec's decision
D8). -/
def Obligations.WrIntfIntcapDiscard : Prop :=
  WritesOneByte .wrIntf .intf 0x0007 (fun _ _ c => c) ∧
  WritesOneByte .wrIntcap .intcap 0x0008 (fun _ _ c => c)

/-! ### The read forms -/

/-- 40_register_access.md R69, R71, R73, R75, R77, R81, R89: RD.IODIR, RD.IPOL, RD.GPINTEN, RD.DEFVAL,
RD.INTCON, RD.GPPU and RD.OLAT return the stored byte and their access changes nothing. -/
def Obligations.RdStorageReturnsStoredByte : Prop :=
  ReadsStored .rdIodir .iodir 0x0000 Chip.iodir ∧
  ReadsStored .rdIpol .ipol 0x0001 Chip.ipol ∧
  ReadsStored .rdGpinten .gpinten 0x0002 Chip.gpinten ∧
  ReadsStored .rdDefval .defval 0x0003 Chip.defval ∧
  ReadsStored .rdIntcon .intcon 0x0004 Chip.intcon ∧
  ReadsStored .rdGppu .gppu 0x0006 Chip.gppu ∧
  ReadsStored .rdOlat .olat 0x000A Chip.olat

/-- 40_register_access.md §2, RD.IOCON: it returns IOCON, whose bits outside P_CFG_IMPL_MASK are 0 in every
state of the invariant `RegInv` (10_state.md §1, the spec's decision D7). -/
def Obligations.RdIoconReturnsImplementedBits : Prop :=
  ReadsStored .rdIocon .iocon 0x0005 Chip.iocon ∧
  ∀ s : State, RegInv s → ∀ p, bitOf s.cfg.implMask p = false → bitOf s.chip.iocon p = false

/-- 40_register_access.md R83, RD.INTF: it returns INTF and does not clear the latch; while INTF is nonzero
and P_INTF_ACCUMULATE is false INTF stays. -/
def Obligations.RdIntfReturnsFlagsUncleared : Prop :=
  ReadsStored .rdIntf .intf 0x0007 Chip.intf ∧
  ∀ s t : State, Quiet s → exec (.rdIntf (devAddr s) 1) s = .next t →
    s.chip.intf ≠ 0x00 → s.cfg.intfAccumulate = false → t.chip.intf = s.chip.intf

/-- 40_register_access.md §2, RD.INTCAP: it returns the capture of the last latch and clears INTF (the
evaluation then sees INTF = 0x00); INTCAP itself stays until the next latch (the spec's decision D13). -/
def Obligations.RdIntcapReturnsCaptureAndClears : Prop :=
  ∀ s : State, Quiet s →
    (encode (.rdIntcap (devAddr s) 1)).header = formHeader s 0x0100 0x0008 ∧
    exec (.rdIntcap (devAddr s) 1) s =
      .next (afterOneByte .intcap (.bytes [s.chip.intcap]) { s.chip with intf := 0x00 } s.draws s)

/-- 40_register_access.md §2, RD.GPIO: it returns the level of every pin after input polarity, at one sample,
and clears INTF when P_GPIO_READ_CLEARS (the spec's decision D14); the sample uses up its draws, so the
evaluation draws anew. -/
def Obligations.RdGpioReturnsPins : Prop :=
  ∀ s : State, Quiet s →
    (encode (.rdGpio (devAddr s) 1)).header = formHeader s 0x0100 0x0009 ∧
    ∃ v : Byte, (∀ p, bitOf v p = (pinLevel s p ^^ bitOf s.chip.ipol p)) ∧
      exec (.rdGpio (devAddr s) 1) s =
        .next (afterOneByte .gpio (.bytes [v])
          { s.chip with intf := if s.cfg.gpioReadClears then 0x00 else s.chip.intf } (s.draws + 1) s)

/-! ### Transactions of any length -/

/-- 30_encoding.md §1, 40_register_access.md §1: every write and read form with no byte sets the pointer and
accesses nothing (the spec's decision D33). -/
def Obligations.ZeroLengthSetsPointerOnly : Prop :=
  ∀ (s : State) (r : Reg), Quiet s →
    exec (writeForm (devAddr s) [] r) s =
      .next { s with chip := { s.chip with ptr := r.addr }, busEnv := s.busEnv.tail, replies := .ok :: s.replies } ∧
    exec (readForm (devAddr s) 0 r) s =
      .next { s with chip := { s.chip with ptr := r.addr }, busEnv := s.busEnv.tail, replies := .bytes [] :: s.replies }

/-- 20_memory.md §3, 40_register_access.md §1 (R44, R64: the split into accesses is the spec's decisions D5 and D19;
how the environment's steps are given and that they follow each access are log entries 8 and 9, the model's): a
write of b :: bs from any register is a write of b, the environment's steps after that access, and a write of bs from the register the pointer then names; one reply
is delivered, and the write completes. -/
def Obligations.LongWriteIsChainOfWrites : Prop :=
  ∀ (s : State) (r : Reg) (b : Byte) (bs : List Byte) (gaps : List (List Ext)) (rest : List BusCond),
    s.busEnv = ⟨none, gaps⟩ :: rest →
    ∃ t r' u,
      exec (writeForm (devAddr s) [b] r) { s with busEnv := .quiet :: rest } = .next t ∧
      t.chip.ptr = r'.addr ∧
      exec (writeForm (devAddr s) bs r')
        { envSteps t (gaps.headD []) with busEnv := ⟨none, gaps.tail⟩ :: rest } = .next u ∧
      exec (writeForm (devAddr s) (b :: bs) r) s = .next { u with replies := .ok :: s.replies }

/-- 20_memory.md §3, 40_register_access.md §1 (R44, R65: the split into accesses is the spec's decisions D5 and D19;
how the environment's steps are given and that they follow each access are log entries 8 and 9, the model's): a
read of n + 1 bytes from any register is a read of one byte, the environment's steps after that access, and a read of n bytes from the register the pointer then names;
the bytes are returned in that order, and the read completes. -/
def Obligations.LongReadIsChainOfReads : Prop :=
  ∀ (s : State) (r : Reg) (n : Nat) (gaps : List (List Ext)) (rest : List BusCond),
    s.busEnv = ⟨none, gaps⟩ :: rest →
    ∃ t r' u x xs ys,
      exec (readForm (devAddr s) 1 r) { s with busEnv := .quiet :: rest } = .next t ∧
      t.chip.ptr = r'.addr ∧ t.replies = .bytes [x] :: s.replies ∧
      exec (readForm (devAddr s) n r')
        { envSteps t (gaps.headD []) with busEnv := ⟨none, gaps.tail⟩ :: rest } = .next u ∧
      u.replies = .bytes xs :: ys ∧ xs.length = n ∧
      exec (readForm (devAddr s) (n + 1) r) s = .next { u with replies := .bytes (x :: xs) :: s.replies }

/-- 40_register_access.md §1 (R66 rests on the spec's decision D5): with SEQOP = 1 and IOCON not written, every
byte of a write goes to the addressed register: OLAT ends with the last byte, and no other storage register
changes. -/
def Obligations.NonSequentialWriteStaysAtRegister : Prop :=
  ∀ (s : State) (data : List Byte) (b : Byte), Quiet s → bitOf s.chip.iocon s.cfg.bitSeqop = true →
    ∃ t, exec (.wrOlat (devAddr s) (data ++ [b])) s = .next t ∧
      t.chip.ptr = 0x0A ∧ t.chip.olat = b ∧ SameStorage t.chip { s.chip with olat := b } ∧
      t.draws = s.draws + data.length + 1

/-- 40_register_access.md §1, R67 (the spec's decision D18): a failed transaction performs the first k of its
accesses, k no more than its length, as the transaction of that length would, and gives BusError in place of
its reply; with k = 0 the pointer is set or the chip is as it was, whichever the environment draws. -/
def Obligations.FailedTransactionPerformsPrefix : Prop :=
  ∀ (s : State) (r : Reg) (data : List Byte) (n : Nat) (f : BusFailure) (gaps : List (List Ext))
    (rest : List BusCond), s.busEnv = ⟨some f, gaps⟩ :: rest →
    (f.ptrSet = true ∨ (0 < f.after ∧ data ≠ []) →
      ∃ t, exec (writeForm (devAddr s) (data.take f.after) r) { s with busEnv := ⟨none, gaps⟩ :: rest } = .next t ∧
        exec (writeForm (devAddr s) data r) s = .next { t with replies := .busError :: s.replies }) ∧
    (f.ptrSet = true ∨ (0 < f.after ∧ 0 < n) →
      ∃ t, exec (readForm (devAddr s) (min f.after n) r) { s with busEnv := ⟨none, gaps⟩ :: rest } = .next t ∧
        exec (readForm (devAddr s) n r) s = .next { t with replies := .busError :: s.replies }) ∧
    (f.ptrSet = false → f.after = 0 ∨ data = [] →
      exec (writeForm (devAddr s) data r) s = .next { s with busEnv := rest, replies := .busError :: s.replies }) ∧
    (f.ptrSet = false → f.after = 0 ∨ n = 0 →
      exec (readForm (devAddr s) n r) s = .next { s with busEnv := rest, replies := .busError :: s.replies })

/-- 30_encoding.md §3, R58 (the spec's decision D18): a transaction that names any other device is not
acknowledged, whatever the rest of it: BusError and nothing else. -/
def Obligations.OtherDeviceNotAcknowledged : Prop :=
  ∀ (s : State) (dev : DevAddr), dev ≠ devAddr s →
    (∀ i : Instr, i.dev = dev → exec i s = .next { s with replies := .busError :: s.replies }) ∧
    (∀ (isRead : Bool) (reg : Byte) (data : List Byte) (n : Nat),
      transact ⟨headerBytes (headerOf dev isRead reg) ++ data, n⟩ s =
        .next { s with replies := .busError :: s.replies })

/-- 30_encoding.md §3, R59 (the spec's decision D3): a transaction to the chip whose register address is 0x0B to
0xFF is the fault ReservedRegister, whatever its form and length. -/
def Obligations.ReservedRegisterFaults : Prop :=
  ∀ (s : State) (isRead : Bool) (reg : Byte) (data : List Byte) (n : Nat), 0x0A < reg →
    transact ⟨headerBytes (headerOf (devAddr s) isRead reg) ++ data, n⟩ s = .fault (.reservedRegister reg)

/-- 20_memory.md §1, 10_state.md §4, 30_encoding.md §1: what no transaction changes, in any form, of any length,
failed or not: the parameters, the host drivers and the schedule (log entry 7, the model's); every transaction
delivers exactly one reply (log entry 25, the model's record), and one that names the chip takes one entry of the
bus inputs (log entry 8, the model's). -/
def Obligations.TransactionFrame : Prop :=
  ∀ (i : Instr) (s : State), ∃ t rep, exec i s = .next t ∧
    t.cfg = s.cfg ∧ t.drivers = s.drivers ∧ t.schedule = s.schedule ∧ t.replies = rep :: s.replies ∧
    (i.dev = devAddr s → t.busEnv = s.busEnv.tail)

/-- 20_memory.md §3 (R45): no read form, of any length, failed or not, changes a storage register. -/
def Obligations.ReadFormsKeepStorage : Prop :=
  ∀ (dev : DevAddr) (n : Nat) (r : Reg) (s t : State), exec (readForm dev n r) s = .next t →
    SameStorage t.chip s.chip

/-- A transaction neither sees nor changes the host drivers and the schedule: run with others in their
place it gives the same chip and the same reply (60_exceptions.md §3; model noninterference). -/
def Obligations.ChipBlindToHosts : Prop :=
  ∀ (f : Frame) (s t : State) (ds : List Driver) (ts : List Turn), transact f s = .next t →
    transact f { s with drivers := ds, schedule := ts } = .next { t with drivers := ds, schedule := ts }

/-! ### Pins, comparator, latch -/

/-- 10_state.md §2 (R31, R32; the spec's decision D9): the level of a pin in each case, the last being a free
value, and the read value. -/
def Obligations.PinLevelTable : Prop :=
  ∀ (s : State) (p : Pin),
    (bitOf s.chip.iodir p = true → s.ext[p] = .high → pinLevel s p = true) ∧
    (bitOf s.chip.iodir p = true → s.ext[p] = .low → pinLevel s p = false) ∧
    (bitOf s.chip.iodir p = true → s.ext[p] = .undriven → bitOf s.chip.gppu p = true → pinLevel s p = true) ∧
    (bitOf s.chip.iodir p = true → s.ext[p] = .undriven → bitOf s.chip.gppu p = false →
      pinLevel s p = bitOf (Config.drawByte s.draws) p) ∧
    (bitOf s.chip.iodir p = false → s.ext[p] = .undriven → pinLevel s p = bitOf s.chip.olat p) ∧
    (bitOf s.chip.iodir p = false → s.ext[p] ≠ .undriven → pinLevel s p = bitOf (Config.drawByte s.draws) p) ∧
    bitOf (sample s) p = (pinLevel s p ^^ bitOf s.chip.ipol p)

/-- 42_interrupt_comparator.md §R103, R111 (the spec's decisions D11, D16): the eight lanes together are one
formula on bytes. -/
def Obligations.ConditionsAreOneByteFormula : Prop :=
  ∀ (c : Chip) (x : Byte), cond c x = flagsOf c x

/-- 42_interrupt_comparator.md R104 (the spec's decisions D11, D12): one evaluation changes INTF, INTCAP and PREV
of the chip by the latch rule and, but for the model's sample count, nothing else. -/
def Obligations.EvaluationLatchesFirstEvent : Prop :=
  ∀ s : State, evaluate s =
    { s with chip := chipAfterEvaluation s.cfg.intfAccumulate (cmpInput s) s.chip, draws := s.draws + 1 }

/-- 42_interrupt_comparator.md R107 (the spec's decision D19): an environment step replaces EXT and evaluates. -/
def Obligations.EnvironmentStepEvaluates : Prop :=
  ∀ (s : State) (e : Ext) (ts : List Turn), s.schedule = .environ e :: ts →
    step s = .next { s with
      schedule := ts
      ext := e
      chip := chipAfterEvaluation s.cfg.intfAccumulate (cmpInput { s with ext := e }) s.chip
      draws := s.draws + 1 }

/-- 42_interrupt_comparator.md R106, 70_reset_and_hazards.md R136, R142 (that nothing else clears is an inference the
spec marks as its own; accumulation and the clearing GPIO read are its decisions D12 and D14, log entry 6): a pending
flag survives every instruction, of any length, failed or not, that performs no clearing access, and every step
whose turn is not a chip reset and issues no transaction that performs one, whoever moves; INTCAP keeps the
capture all the while. A read of INTCAP clears, and a read of GPIO where P_GPIO_READ_CLEARS. -/
def Obligations.PendingFlagsSurvive : Prop :=
  ∀ s t : State, s.chip.intf ≠ 0x00 →
    ((∃ i, ClearsNothing i s ∧ exec i s = .next t) ∨
     ((∀ u ts, s.schedule = u :: ts → u ≠ .chipReset ∧
        ∀ f i, turnFrame u s = some f → decode f = .ok i → ClearsNothing i s) ∧ step s = .next t) ∨
     (∃ e, t = envStep s e)) →
    t.chip.intf &&& s.chip.intf = s.chip.intf ∧ t.chip.intcap = s.chip.intcap ∧
    (s.cfg.intfAccumulate = false → t.chip.intf = s.chip.intf)

/-- 42_interrupt_comparator.md R110 (an inference the spec marks as its own): a pin flagged by the latch and
compared against PREV has its new value in INTCAP, the opposite of its PREV bit. -/
def Obligations.ChangeLatchCapturesNewValue : Prop :=
  ∀ (s : State) (p : Pin), s.chip.intf = 0x00 → bitOf s.chip.intcon p = false →
    bitOf (evaluate s).chip.intf p = true →
    bitOf (evaluate s).chip.intcap p = !bitOf s.chip.prev p

/-- 42_interrupt_comparator.md R108 (levels from general knowledge, the spec's decision D15): the interrupt
output. -/
def Obligations.InterruptOutputTable : Prop :=
  ∀ s : State,
    (bitOf s.chip.iocon s.cfg.bitOdr = true →
      (s.chip.intf ≠ 0x00 → intPin s = .drivenLow) ∧ (s.chip.intf = 0x00 → intPin s = .highImpedance)) ∧
    (bitOf s.chip.iocon s.cfg.bitOdr = false → bitOf s.chip.iocon s.cfg.bitIntpol = true →
      (s.chip.intf ≠ 0x00 → intPin s = .drivenHigh) ∧ (s.chip.intf = 0x00 → intPin s = .drivenLow)) ∧
    (bitOf s.chip.iocon s.cfg.bitOdr = false → bitOf s.chip.iocon s.cfg.bitIntpol = false →
      (s.chip.intf ≠ 0x00 → intPin s = .drivenLow) ∧ (s.chip.intf = 0x00 → intPin s = .drivenHigh))

/-! ### Invariants of every step -/

/-- 42_interrupt_comparator.md R109 (an inference the spec marks as its own): no step leaves a level condition
standing with INTF = 0x00, whatever the transaction, its failure, the environment or a reset do. -/
def Obligations.StepKeepsLevelsLatched : Prop :=
  ∀ s t : State, LevelsLatched s → step s = .next t → LevelsLatched t

/-- 10_state.md §1 and 30_encoding.md §3: every step keeps IOCON within its implemented bits (the spec's
decision D7) and the pointer at an implemented address (an inference the spec marks as its own). -/
def Obligations.StepKeepsRegisterInvariant : Prop :=
  ∀ s t : State, RegInv s → step s = .next t → RegInv t

/-- The invariants of StepKeepsLevelsLatched and StepKeepsRegisterInvariant hold after reset, the first because
no pin is enabled there (10_state.md §1; the reset values are log entry 5, PRESUMED). -/
def Obligations.ResetInvariants : Prop := LevelsLatched State.reset ∧ RegInv State.reset

/-- 20_memory.md §1 (R40; the spec's decision D28): the strap is fixed for the life of the chip, and so is
every other parameter of 00_scope.md §3: no step changes one. -/
def Obligations.ParametersFixed : Prop :=
  ∀ s t : State, step s = .next t → t.cfg = s.cfg

/-! ### Reset and steps -/

/-- 10_state.md §1, 70_reset_and_hazards.md §1: the registers after reset. The values are from general knowledge
(the spec's decision D17, log entry 5); PREV rests on the launch EXT of log entry 3. -/
def Obligations.ResetRegisterValues : Prop :=
  State.reset.chip = ⟨0xFF, 0x00, 0x00, 0x00, 0x00, 0x00, 0x00, 0x00, 0x00, 0x00, 0x00, 0x00⟩ ∧
  State.reset.chip.prev = cmpInput State.reset

/-- 70_reset_and_hazards.md §1, R136 to R138 (values from general knowledge, decision D17): a chip reset in any
state gives every register its reset value, PTR 0x00 and PREV the comparator input with the reset registers;
it makes no latch and touches neither EXT nor the host drivers. -/
def Obligations.ChipResetTurn : Prop :=
  ∀ (s : State) (ts : List Turn), s.schedule = .chipReset :: ts →
    ∃ x, step s = .next { s with
        schedule := ts
        chip := ⟨0xFF, 0x00, 0x00, 0x00, 0x00, 0x00, 0x00, 0x00, 0x00, 0x00, 0x00, x⟩
        draws := s.draws + 1 } ∧
      ∀ p : Pin, bitOf x p = match s.ext[p] with
        | .high => true
        | .low => false
        | .undriven => bitOf (Config.drawByte s.draws) p

/-- 20_memory.md §4 (R47, R48), 00_scope.md §4 (R5, the spec's decision D1): the chip performs transactions one at a
time in the order they come. A step whose turn is a transaction that decodes to an instruction is `exec` of it on
the state with the turn taken off the schedule; with nothing scheduled a step changes nothing. The schedule and the
idle step are log entry 7, the model's choice. -/
def Obligations.StepRunsDecodedInstruction : Prop :=
  (∀ (s : State) (f : Frame) (ts : List Turn) (i : Instr), s.schedule = .direct f :: ts →
    decode f = .ok i → step s = exec i { s with schedule := ts }) ∧
  (∀ s : State, s.schedule = [] → step s = .next s)

/-- 60_exceptions.md §1 (R125; the spec's decision D3): the machine stops for nothing but a reserved register
address, an operand outside its type, and (log entry 10, the model's choice) a directly issued frame that is no
transaction; every other step answers a next state. -/
def Obligations.StopsOnlyByName : Prop :=
  ∀ s : State, Safe (step s) ∨
    (∃ reg : Byte, 0x0A < reg ∧ step s = .fault (.reservedRegister reg)) ∨
    (∃ op : HostOp, op.WellFormed = false ∧ step s = .fault (.badOperand op)) ∨
    (∃ f ts e, s.schedule = .direct f :: ts ∧ decode f = .error e ∧ step s = .refused .notATransaction)

/-- 60_exceptions.md §3, 70_reset_and_hazards.md §3 (R135, R147): a restart of a driver loses its shadow and
leaves the chip and the pins as they are (the address and the fate of the operations in progress are log
entries 4 and 14, the model's choice). -/
def Obligations.HostRestartLosesShadow : Prop :=
  ∀ (s : State) (d : Nat) (drv : Driver) (ts : List Turn), s.schedule = .hostRestart d :: ts →
    s.drivers[d]? = some drv →
    ∃ drv', step s = .next { s with schedule := ts, drivers := s.drivers.set d drv' } ∧
      ∀ p : Pin, drv'.side.mode[p] = .none

/-! ### Host operations -/

/-- 43_interrupt_operations.md R115: the qualification function, row by row. -/
def Obligations.QualificationTable : Prop :=
  (qualify .none false = false ∧ qualify .none true = false) ∧
  (qualify .rising false = false ∧ qualify .rising true = true) ∧
  (qualify .falling false = true ∧ qualify .falling true = false) ∧
  (qualify .change false = true ∧ qualify .change true = true) ∧
  (qualify .levelHigh false = true ∧ qualify .levelHigh true = true) ∧
  (qualify .levelLow false = true ∧ qualify .levelLow true = true)

/-- 40_register_access.md R91, R92: readRegister and writeRegister issue one transaction of one byte at the
driver's address and give its byte, or Ok, or BusError; a fault of the transaction is theirs. -/
def Obligations.RegisterOperationsAreOneTransaction : Prop :=
  ∀ (h : HostSide) (s : State) (a b : Byte),
    (∀ t x rs, transact (.read h.addr a 1) s = .next t → t.replies = .bytes [x] :: rs →
      runOp (.readRegister a) h s = .next (t, h, .byte x)) ∧
    (∀ t rs, transact (.read h.addr a 1) s = .next t → t.replies = .busError :: rs →
      runOp (.readRegister a) h s = .next (t, h, .busError)) ∧
    (∀ t rs, transact (.write h.addr a [b]) s = .next t → t.replies = .ok :: rs →
      runOp (.writeRegister a b) h s = .next (t, h, .ok)) ∧
    (∀ t rs, transact (.write h.addr a [b]) s = .next t → t.replies = .busError :: rs →
      runOp (.writeRegister a b) h s = .next (t, h, .busError)) ∧
    (∀ e, transact (.read h.addr a 1) s = .fault e → runOp (.readRegister a) h s = .fault e) ∧
    (∀ e, transact (.write h.addr a [b]) s = .fault e → runOp (.writeRegister a b) h s = .fault e)

/-- 40_register_access.md §3 (R93, R59, R142, R146; always writing, the masked IOCON, the discarded writes and the
clearing GPIO read are the spec's decisions D30, D7, D8, D14): setBit on any register, undisturbed, is its read and
its write of the byte read with bit p set to v, and returns Ok. A plain storage register: bit p becomes v and the
rest stays. IOCON: of the byte its implemented bits are stored. INTF: the flags are read, not cleared, and the write
is discarded. INTCAP: the read clears the latch and the write is discarded. GPIO: the byte is the sample of the
pins, the read clears by parameter, and OLAT takes all eight bits. A reserved address is the fault
ReservedRegister. -/
def Obligations.SetBitChangesOneBit : Prop :=
  ∀ (h : HostSide) (s : State) (p : Pin) (v : Bool), Reaches h s →
    (∀ r : Reg, ∃ u t x, exec (readForm h.addr 1 r) s = .next u ∧ u.replies = .bytes [x] :: s.replies ∧
      exec (writeForm h.addr [withBit x p v] r) u = .next t ∧
      runOp (.setBit r.addr p v) h s = .next (t, h, .ok) ∧ t.replies = .ok :: .bytes [x] :: s.replies ∧
      (∀ val, plainStored r = some val → x = val s.chip ∧
        (∀ q, bitOf (val t.chip) q = if q = p then v else bitOf (val s.chip) q) ∧
        t.chip.iocon = s.chip.iocon ∧
        ∀ r' val', r' ≠ r → plainStored r' = some val' → val' t.chip = val' s.chip) ∧
      (r = .iocon → x = s.chip.iocon ∧
        SameStorage t.chip { s.chip with iocon := withBit x p v &&& s.cfg.implMask }) ∧
      (r = .intf ∨ r = .intcap → t = afterOneByte r .ok u.chip u.draws u ∧ SameStorage t.chip s.chip) ∧
      (r = .intf → x = s.chip.intf ∧ u = afterOneByte .intf (.bytes [x]) s.chip s.draws s) ∧
      (r = .intcap → x = s.chip.intcap ∧
        u = afterOneByte .intcap (.bytes [x]) { s.chip with intf := 0x00 } s.draws s) ∧
      (r = .gpio → (∀ q, bitOf x q = (pinLevel s q ^^ bitOf s.chip.ipol q)) ∧
        u = afterOneByte .gpio (.bytes [x])
          { s.chip with intf := if s.cfg.gpioReadClears then 0x00 else s.chip.intf } (s.draws + 1) s ∧
        SameStorage t.chip { s.chip with olat := withBit x p v })) ∧
    ∀ a : Byte, 0x0A < a → runOp (.setBit a p v) h s = .fault (.reservedRegister a)

/-- 41_pin_operations.md R95: setDirection reads IODIR, writes it with bit p = (d == IN) and the other bits
unchanged, and returns Ok; a second call gives the same IODIR. -/
def Obligations.SetDirectionReadsBack : Prop :=
  ∀ (h : HostSide) (s : State) (p : Pin) (d : Direction), Reaches h s →
    ∃ t u x, exec (.rdIodir h.addr 1) s = .next t ∧
      (∀ q, bitOf x q = if q = p then decide (d = .input) else bitOf s.chip.iodir q) ∧
      exec (.wrIodir h.addr [x]) t = .next u ∧
      runOp (.setDirection p (.val d)) h s = .next (u, h, .ok) ∧ u.chip.iodir = x ∧
      ∃ w, runOp (.setDirection p (.val d)) h u = .next (w, h, .ok) ∧ w.chip.iodir = x

/-- 41_pin_operations.md (R96, R98, R99, R101; the read side of writePin is the spec's decision D25): writePin,
setPullUp and setInputPolarity change one bit of OLAT, GPPU and IPOL, and writePort replaces OLAT. -/
def Obligations.PinOperationsWriteTheirRegister : Prop :=
  ∀ (h : HostSide) (s : State) (p : Pin) (v : Bool) (b : Byte), Reaches h s →
    (∃ t, runOp (.writePin p (.val v)) h s = .next (t, h, .ok) ∧
      SameStorage t.chip { s.chip with olat := withBit s.chip.olat p v }) ∧
    (∃ t, runOp (.setPullUp p v) h s = .next (t, h, .ok) ∧
      SameStorage t.chip { s.chip with gppu := withBit s.chip.gppu p v }) ∧
    (∃ t, runOp (.setInputPolarity p v) h s = .next (t, h, .ok) ∧
      SameStorage t.chip { s.chip with ipol := withBit s.chip.ipol p v }) ∧
    (∃ t, runOp (.writePort b) h s = .next (t, h, .ok) ∧ SameStorage t.chip { s.chip with olat := b })

/-- 95_test_vectors.md W2: setPullUp on two pins, in either order, from GPPU = 0x00 leaves exactly the two bits
set. -/
def Obligations.PullUpOrderIndependent : Prop :=
  ∀ (h : HostSide) (s : State), Reaches h s → s.chip.gppu = 0x00 →
    ∃ t u t' u', runOp (.setPullUp 3 true) h s = .next (t, h, .ok) ∧
      runOp (.setPullUp 5 true) h t = .next (u, h, .ok) ∧ u.chip.gppu = 0x28 ∧
      runOp (.setPullUp 5 true) h s = .next (t', h, .ok) ∧
      runOp (.setPullUp 3 true) h t' = .next (u', h, .ok) ∧ u'.chip.gppu = 0x28

/-- 41_pin_operations.md R97, R100: readPin and readPort are one RD.GPIO at the driver's address and give the bit
of the pin, or all eight, of one sample: the levels after input polarity. -/
def Obligations.PinReadsSampleLivePins : Prop :=
  ∀ (h : HostSide) (s : State) (p : Pin), Reaches h s →
    ∃ t x, exec (.rdGpio h.addr 1) s = .next t ∧
      (∀ q, bitOf x q = (pinLevel s q ^^ bitOf s.chip.ipol q)) ∧
      runOp (.readPin p) h s = .next (t, h, .level (bitOf x p)) ∧
      runOp .readPort h s = .next (t, h, .byte x)

/-- 40_register_access.md §3 (R90; the spec's decision D20): a pin operation with an index outside 0 to 7 changes
nothing, whatever its other operands: Ok, or LOW for readPin, under SILENT, InvalidPin under EXPLICIT. -/
def Obligations.OutOfRangePinIsNoOp : Prop :=
  ∀ (h : HostSide) (s : State) (p : Int) (a : Byte) (v : Bool) (d : Arg Direction) (l : Arg Bool)
    (m : BitVec 3), p < 0 ∨ 7 < p →
    let r : OpResult := match s.cfg.invalidPin with
      | .silent => .ok
      | .explicit => .invalidPin
    runOp (.setBit a p v) h s = .next (s, h, r) ∧
    runOp (.setDirection p d) h s = .next (s, h, r) ∧
    runOp (.writePin p l) h s = .next (s, h, r) ∧
    runOp (.setPullUp p v) h s = .next (s, h, r) ∧
    runOp (.setInputPolarity p v) h s = .next (s, h, r) ∧
    runOp (.enableInterrupt p m) h s = .next (s, h, r) ∧
    runOp (.disableInterrupt p) h s = .next (s, h, r) ∧
    runOp (.readPin p) h s = .next (s, h, match s.cfg.invalidPin with
      | .silent => .level false
      | .explicit => .invalidPin)

/-- 60_exceptions.md §1 (R125, R126; the spec's decisions D3, D24; that a level, a polarity and a drive outside
their types fault as direction, field and mode code do is log entry 13, the model's choice): an operand outside its
type is the fault BadOperand once the pin index has passed, and an operation whose operands are all of their types never is. -/
def Obligations.BadOperandFaults : Prop :=
  (∀ (h : HostSide) (s : State) (p : Pin) (n : Nat) (v : Bool) (m : BitVec 3),
    runOp (.setDirection p (.bad n)) h s = .fault (.badOperand (.setDirection p (.bad n))) ∧
    runOp (.writePin p (.bad n)) h s = .fault (.badOperand (.writePin p (.bad n))) ∧
    (5 < m.toNat → runOp (.enableInterrupt p m) h s = .fault (.badOperand (.enableInterrupt p m))) ∧
    runOp (.setConfigField (.bad n) v) h s = .fault (.badOperand (.setConfigField (.bad n) v)) ∧
    runOp (.getConfigField (.bad n)) h s = .fault (.badOperand (.getConfigField (.bad n))) ∧
    runOp (.setInterruptPolarity (.bad n)) h s = .fault (.badOperand (.setInterruptPolarity (.bad n))) ∧
    runOp (.setInterruptDrive (.bad n)) h s = .fault (.badOperand (.setInterruptDrive (.bad n)))) ∧
  ∀ (op op' : HostOp) (h : HostSide) (s : State), op.WellFormed = true →
    runOp op h s ≠ .fault (.badOperand op')

/-- 43_interrupt_operations.md R112, R113: enableInterrupt with a mode other than NONE, undisturbed, records the
mode and sets the pin's bits of GPINTEN, INTCON and, for a level mode, DEFVAL as the mode table says; an
edge mode leaves DEFVAL. -/
def Obligations.EnableInterruptConfiguresPin : Prop :=
  ∀ (h : HostSide) (s : State) (p : Pin) (m : TrigMode), Reaches h s → m ≠ .none →
    ∃ t, runOp (.enableInterrupt p (modeCode m)) h s = .next (t, { h with mode := h.mode.set p m }, .ok) ∧
      SameStorage t.chip { s.chip with
        gpinten := withBit s.chip.gpinten p true
        intcon := withBit s.chip.intcon p (decide (m = .levelHigh ∨ m = .levelLow))
        defval := if m = .levelHigh then withBit s.chip.defval p false
          else if m = .levelLow then withBit s.chip.defval p true else s.chip.defval }

/-- 43_interrupt_operations.md R113, R114 (the spec's decisions D22, D23): disableInterrupt, and enableInterrupt
with NONE, clear the pin's GPINTEN bit and its shadow slot and leave INTCON and DEFVAL; a pending flag stays. -/
def Obligations.DisableInterruptClearsEnable : Prop :=
  ∀ (h : HostSide) (s : State) (p : Pin), Reaches h s →
    ∃ t, runOp (.disableInterrupt p) h s = .next (t, { h with mode := h.mode.set p .none }, .ok) ∧
      runOp (.enableInterrupt p 0) h s = .next (t, { h with mode := h.mode.set p .none }, .ok) ∧
      SameStorage t.chip { s.chip with gpinten := withBit s.chip.gpinten p false } ∧
      (s.chip.intf ≠ 0x00 → t.chip.intf &&& s.chip.intf = s.chip.intf)

/-- 43_interrupt_operations.md R115 to R117 (two separate reads: the spec's decision D36): the result holds only
pins that were pending and have a mode; when a latch was pending it is exactly the pending pins that qualify
under the captured bits. -/
def Obligations.EvaluatePendingReportsQualified : Prop :=
  ∀ (h : HostSide) (s : State), Reaches h s →
    ∃ t m, runOp .evaluatePendingInterrupts h s = .next (t, h, .byte m) ∧ SameStorage t.chip s.chip ∧
      (∀ p, bitOf m p = true → bitOf s.chip.intf p = true ∧ h.mode[p] ≠ .none) ∧
      (s.chip.intf ≠ 0x00 →
        ∀ p, bitOf m p = (bitOf s.chip.intf p && (match h.mode[p] with
          | .none => false
          | .rising => bitOf s.chip.intcap p
          | .falling => !bitOf s.chip.intcap p
          | .change | .levelHigh | .levelLow => true)))

/-- 43_interrupt_operations.md R118, R119, R121, R123 (field positions and senses: the spec's decisions D6, D31): a
setter of one IOCON field, undisturbed, gives that field its value and changes no other bit of IOCON, when the
field is an implemented bit and IOCON holds implemented bits only. -/
def Obligations.ConfigFieldIsolation : Prop :=
  ∀ (h : HostSide) (s : State) (f : CfgField) (v : Bool), Reaches h s → RegInv s →
    bitOf s.cfg.implMask (fieldBit s.cfg f) = true →
    ∃ t, runOp (.setConfigField (.val f) v) h s = .next (t, h, .ok) ∧
      (∀ q, bitOf t.chip.iocon q = if q = fieldBit s.cfg f then v else bitOf s.chip.iocon q) ∧
      SameStorage t.chip { s.chip with iocon := t.chip.iocon } ∧
      (f = .intpol → runOp (.setInterruptPolarity (.val (if v then .activeHigh else .activeLow))) h s =
        .next (t, h, .ok)) ∧
      (f = .odr → runOp (.setInterruptDrive (.val (if v then .openDrain else .activeDriver))) h s =
        .next (t, h, .ok))

/-- 43_interrupt_operations.md R120, R122: getInterruptPolarity and getInterruptDrive are one RD.IOCON at the
driver's address and report the stored bit of INTPOL and of ODR. -/
def Obligations.InterruptGettersReportStoredBits : Prop :=
  ∀ (h : HostSide) (s : State), Reaches h s →
    ∃ t, exec (.rdIocon h.addr 1) s = .next t ∧
      runOp .getInterruptPolarity h s = .next (t, h,
        .polarity (if bitOf s.chip.iocon s.cfg.bitIntpol then .activeHigh else .activeLow)) ∧
      runOp .getInterruptDrive h s = .next (t, h,
        .drive (if bitOf s.chip.iocon s.cfg.bitOdr then .openDrain else .activeDriver)) ∧
      ∀ f, runOp (.getConfigField (.val f)) h s =
        .next (t, h, .flag (bitOf s.chip.iocon (fieldBit s.cfg f)))

/-- 70_reset_and_hazards.md §2 (R139; the seven writes: the spec's decision D26): begin resolves the address with
the clamp and clears the shadow; where that address is the chip's it leaves IODIR = 0xFF, the other writable
per-pin registers 0x00 and IOCON as it was; where it is not, the chip is untouched and the result BusError. -/
def Obligations.BeginInitialisesChip : Prop :=
  ∀ (h : HostSide) (s : State) (strap : Nat), s.busEnv = [] →
    let a : DevAddr := 0x20 ||| BitVec.ofNat 7 (min strap 7)
    let h' : HostSide := ⟨a, Vector.replicate 8 .none⟩
    (a = devAddr s → ∃ t, runOp (.beginOp strap) h s = .next (t, h', .ok) ∧
      SameStorage t.chip { s.chip with
        iodir := 0xFF, ipol := 0x00, gpinten := 0x00, defval := 0x00, intcon := 0x00, gppu := 0x00, olat := 0x00 }) ∧
    (a ≠ devAddr s → ∃ t, runOp (.beginOp strap) h s = .next (t, h', .busError) ∧ t.chip = s.chip)

/-- 40_register_access.md §3 (R93, R94; the spec's decision D24): when the read of setBit fails, the operation
returns BusError and issues no write: one transaction has taken place and no storage register has changed. -/
def Obligations.FailedReadStopsSetBit : Prop :=
  ∀ (h : HostSide) (s : State) (r : Reg) (p : Pin) (v : Bool) (f : BusFailure) (gaps : List (List Ext))
    (rest : List BusCond), h.addr = devAddr s → s.busEnv = ⟨some f, gaps⟩ :: rest →
    ∃ t, runOp (.setBit r.addr p v) h s = .next (t, h, .busError) ∧ t.busEnv = rest ∧
      t.replies = .busError :: s.replies ∧ SameStorage t.chip s.chip

/-- 70_reset_and_hazards.md §3 (R141; the split of an operation into moves is log entry 12, the model's choice): a
write of the same plain storage register, directly issued or by any other context of any driver, between the read
and the write of a setBit of context c of driver d is lost: three steps leave the byte first read with bit p set
to v, whatever the operation does after it. -/
def Obligations.LostUpdate : Prop :=
  ∀ (s : State) (r : Reg) (val : Chip → Byte) (d c : Nat) (drv : Driver) (ctx : Context) (p : Pin) (v : Bool)
    (k : Script) (b : Byte) (w : Turn) (ts : List Turn),
    Reaches drv.side s → plainStored r = some val → s.drivers[d]? = some drv → drv.contexts[c]? = some ctx →
    ctx.running = some (.rmw r.addr p v k) →
    w ≠ .host d c → turnFrame w s = some (.write (devAddr s) r.addr [b]) →
    s.schedule = .host d c :: w :: .host d c :: ts →
    ∃ t1 t2 t3, step s = .next t1 ∧ step t1 = .next t2 ∧ step t2 = .next t3 ∧
      val t2.chip = b ∧ val t3.chip = withBit (val s.chip) p v ∧ t3.schedule = ts

/-- The moves of a context that no other turn interrupts do what the operation run whole does (20_memory.md §4,
40_register_access.md R94, 60_exceptions.md R126; the moves are the model's, log entry 12). An operation in progress:
after some number of moves the state is the one `runScript` gives, and the context has its result. An operation not
yet begun: its first move takes it off the program and, before any transaction, writes the driver's address and
shadow as `launch` says, or faults with BadOperand; after some number of moves the state, the driver's side and the
result are those of `runOp`, with every other context and driver as it was. -/
def Obligations.UninterruptedMovesAreRunScript : Prop :=
  (∀ (k : Script) (s t : State) (r : OpResult) (d c : Nat) (drv : Driver) (ctx : Context),
    s.drivers[d]? = some drv → drv.contexts[c]? = some ctx → ctx.running = some k →
    runScript drv.side k s = .next (t, r) →
    ∃ n, Sys2Proof.core.run n { s with schedule := List.replicate n (.host d c) } = .next { t with
      schedule := []
      drivers := s.drivers.set d
        { drv with contexts := drv.contexts.set c { ctx with running := none, results := r :: ctx.results } } }) ∧
  ∀ (op : HostOp) (ops : List HostOp) (s : State) (d c : Nat) (drv : Driver) (ctx : Context),
    s.drivers[d]? = some drv → drv.contexts[c]? = some ctx → ctx.running = none → ctx.program = op :: ops →
    (∀ h k ts, launch op s.cfg drv.side = .runs h k → s.schedule = .host d c :: ts →
      step s = .next { s with
        schedule := ts
        drivers := s.drivers.set d ⟨h, drv.contexts.set c (settle ⟨ops, none, ctx.results⟩ k)⟩ }) ∧
    (∀ ts, launch op s.cfg drv.side = .bad → s.schedule = .host d c :: ts →
      step s = .fault (.badOperand op)) ∧
    (∀ h t r, runOp op drv.side s = .next (t, h, r) →
      ∃ n, Sys2Proof.core.run n { s with schedule := List.replicate n (.host d c) } = .next { t with
        schedule := []
        drivers := s.drivers.set d ⟨h, drv.contexts.set c ⟨ops, none, r :: ctx.results⟩⟩ })
end

