-- ==== Sys2Proof/Laws/State.lean ====
section
/-! SUPPORT. One lemma for each field and each update of the state, so that no later proof unfolds a
record update. -/

namespace Sys2Proof.Machine

@[simp] theorem State.setChip_cfg (s : State) (c : Chip) : (s.setChip c).cfg = s.cfg := rfl
@[simp] theorem State.setChip_chip (s : State) (c : Chip) : (s.setChip c).chip = c := rfl
@[simp] theorem State.setChip_ext (s : State) (c : Chip) : (s.setChip c).ext = s.ext := rfl
@[simp] theorem State.setChip_drivers (s : State) (c : Chip) : (s.setChip c).drivers = s.drivers := rfl
@[simp] theorem State.setChip_replies (s : State) (c : Chip) : (s.setChip c).replies = s.replies := rfl
@[simp] theorem State.setChip_schedule (s : State) (c : Chip) : (s.setChip c).schedule = s.schedule := rfl
@[simp] theorem State.setChip_busEnv (s : State) (c : Chip) : (s.setChip c).busEnv = s.busEnv := rfl
@[simp] theorem State.setChip_draws (s : State) (c : Chip) : (s.setChip c).draws = s.draws := rfl

@[simp] theorem State.setExt_cfg (s : State) (e : Ext) : (s.setExt e).cfg = s.cfg := rfl
@[simp] theorem State.setExt_chip (s : State) (e : Ext) : (s.setExt e).chip = s.chip := rfl
@[simp] theorem State.setExt_ext (s : State) (e : Ext) : (s.setExt e).ext = e := rfl
@[simp] theorem State.setExt_drivers (s : State) (e : Ext) : (s.setExt e).drivers = s.drivers := rfl
@[simp] theorem State.setExt_replies (s : State) (e : Ext) : (s.setExt e).replies = s.replies := rfl
@[simp] theorem State.setExt_schedule (s : State) (e : Ext) : (s.setExt e).schedule = s.schedule := rfl
@[simp] theorem State.setExt_busEnv (s : State) (e : Ext) : (s.setExt e).busEnv = s.busEnv := rfl
@[simp] theorem State.setExt_draws (s : State) (e : Ext) : (s.setExt e).draws = s.draws := rfl

@[simp] theorem State.setDrivers_cfg (s : State) (ds : List Driver) : (s.setDrivers ds).cfg = s.cfg := rfl
@[simp] theorem State.setDrivers_chip (s : State) (ds : List Driver) : (s.setDrivers ds).chip = s.chip := rfl
@[simp] theorem State.setDrivers_ext (s : State) (ds : List Driver) : (s.setDrivers ds).ext = s.ext := rfl
@[simp] theorem State.setDrivers_drivers (s : State) (ds : List Driver) : (s.setDrivers ds).drivers = ds := rfl
@[simp] theorem State.setDrivers_replies (s : State) (ds : List Driver) : (s.setDrivers ds).replies = s.replies := rfl
@[simp] theorem State.setDrivers_schedule (s : State) (ds : List Driver) : (s.setDrivers ds).schedule = s.schedule := rfl
@[simp] theorem State.setDrivers_busEnv (s : State) (ds : List Driver) : (s.setDrivers ds).busEnv = s.busEnv := rfl
@[simp] theorem State.setDrivers_draws (s : State) (ds : List Driver) : (s.setDrivers ds).draws = s.draws := rfl

@[simp] theorem State.setSchedule_cfg (s : State) (ts : List Turn) : (s.setSchedule ts).cfg = s.cfg := rfl
@[simp] theorem State.setSchedule_chip (s : State) (ts : List Turn) : (s.setSchedule ts).chip = s.chip := rfl
@[simp] theorem State.setSchedule_ext (s : State) (ts : List Turn) : (s.setSchedule ts).ext = s.ext := rfl
@[simp] theorem State.setSchedule_drivers (s : State) (ts : List Turn) : (s.setSchedule ts).drivers = s.drivers := rfl
@[simp] theorem State.setSchedule_replies (s : State) (ts : List Turn) : (s.setSchedule ts).replies = s.replies := rfl
@[simp] theorem State.setSchedule_schedule (s : State) (ts : List Turn) : (s.setSchedule ts).schedule = ts := rfl
@[simp] theorem State.setSchedule_busEnv (s : State) (ts : List Turn) : (s.setSchedule ts).busEnv = s.busEnv := rfl
@[simp] theorem State.setSchedule_draws (s : State) (ts : List Turn) : (s.setSchedule ts).draws = s.draws := rfl

@[simp] theorem State.pushReply_cfg (s : State) (r : Reply) : (s.pushReply r).cfg = s.cfg := rfl
@[simp] theorem State.pushReply_chip (s : State) (r : Reply) : (s.pushReply r).chip = s.chip := rfl
@[simp] theorem State.pushReply_ext (s : State) (r : Reply) : (s.pushReply r).ext = s.ext := rfl
@[simp] theorem State.pushReply_drivers (s : State) (r : Reply) : (s.pushReply r).drivers = s.drivers := rfl
@[simp] theorem State.pushReply_replies (s : State) (r : Reply) : (s.pushReply r).replies = r :: s.replies := rfl
@[simp] theorem State.pushReply_schedule (s : State) (r : Reply) : (s.pushReply r).schedule = s.schedule := rfl
@[simp] theorem State.pushReply_busEnv (s : State) (r : Reply) : (s.pushReply r).busEnv = s.busEnv := rfl
@[simp] theorem State.pushReply_draws (s : State) (r : Reply) : (s.pushReply r).draws = s.draws := rfl

@[simp] theorem State.tick_cfg (s : State) : (s.tick).cfg = s.cfg := rfl
@[simp] theorem State.tick_chip (s : State) : (s.tick).chip = s.chip := rfl
@[simp] theorem State.tick_ext (s : State) : (s.tick).ext = s.ext := rfl
@[simp] theorem State.tick_drivers (s : State) : (s.tick).drivers = s.drivers := rfl
@[simp] theorem State.tick_replies (s : State) : (s.tick).replies = s.replies := rfl
@[simp] theorem State.tick_schedule (s : State) : (s.tick).schedule = s.schedule := rfl
@[simp] theorem State.tick_busEnv (s : State) : (s.tick).busEnv = s.busEnv := rfl
@[simp] theorem State.tick_draws (s : State) : (s.tick).draws = s.draws + 1 := rfl

@[simp] theorem State.takeBusCond_cfg (s : State) : (s.takeBusCond).cfg = s.cfg := rfl
@[simp] theorem State.takeBusCond_chip (s : State) : (s.takeBusCond).chip = s.chip := rfl
@[simp] theorem State.takeBusCond_ext (s : State) : (s.takeBusCond).ext = s.ext := rfl
@[simp] theorem State.takeBusCond_drivers (s : State) : (s.takeBusCond).drivers = s.drivers := rfl
@[simp] theorem State.takeBusCond_replies (s : State) : (s.takeBusCond).replies = s.replies := rfl
@[simp] theorem State.takeBusCond_schedule (s : State) : (s.takeBusCond).schedule = s.schedule := rfl
@[simp] theorem State.takeBusCond_busEnv (s : State) : (s.takeBusCond).busEnv = s.busEnv.tail := rfl
@[simp] theorem State.takeBusCond_draws (s : State) : (s.takeBusCond).draws = s.draws := rfl

@[simp] theorem State.setPtr_cfg (s : State) (r : Reg) : (s.setPtr r).cfg = s.cfg := rfl
@[simp] theorem State.setPtr_chip (s : State) (r : Reg) : (s.setPtr r).chip = { s.chip with ptr := r.addr } := rfl
@[simp] theorem State.setPtr_ext (s : State) (r : Reg) : (s.setPtr r).ext = s.ext := rfl
@[simp] theorem State.setPtr_drivers (s : State) (r : Reg) : (s.setPtr r).drivers = s.drivers := rfl
@[simp] theorem State.setPtr_replies (s : State) (r : Reg) : (s.setPtr r).replies = s.replies := rfl
@[simp] theorem State.setPtr_schedule (s : State) (r : Reg) : (s.setPtr r).schedule = s.schedule := rfl
@[simp] theorem State.setPtr_busEnv (s : State) (r : Reg) : (s.setPtr r).busEnv = s.busEnv := rfl
@[simp] theorem State.setPtr_draws (s : State) (r : Reg) : (s.setPtr r).draws = s.draws := rfl

@[simp] theorem State.setDriver_cfg (s : State) (d : Nat) (drv : Driver) : (s.setDriver d drv).cfg = s.cfg := rfl
@[simp] theorem State.setDriver_chip (s : State) (d : Nat) (drv : Driver) : (s.setDriver d drv).chip = s.chip := rfl
@[simp] theorem State.setDriver_ext (s : State) (d : Nat) (drv : Driver) : (s.setDriver d drv).ext = s.ext := rfl
@[simp] theorem State.setDriver_drivers (s : State) (d : Nat) (drv : Driver) : (s.setDriver d drv).drivers = s.drivers.set d drv := rfl
@[simp] theorem State.setDriver_replies (s : State) (d : Nat) (drv : Driver) : (s.setDriver d drv).replies = s.replies := rfl
@[simp] theorem State.setDriver_schedule (s : State) (d : Nat) (drv : Driver) : (s.setDriver d drv).schedule = s.schedule := rfl
@[simp] theorem State.setDriver_busEnv (s : State) (d : Nat) (drv : Driver) : (s.setDriver d drv).busEnv = s.busEnv := rfl
@[simp] theorem State.setDriver_draws (s : State) (d : Nat) (drv : Driver) : (s.setDriver d drv).draws = s.draws := rfl

/-- Two states with the same fields are the same state. -/
theorem State.eq_of_fields {s t : State} (h1 : s.cfg = t.cfg) (h2 : s.chip = t.chip) (h3 : s.ext = t.ext)
    (h4 : s.drivers = t.drivers) (h5 : s.replies = t.replies) (h6 : s.schedule = t.schedule)
    (h7 : s.busEnv = t.busEnv) (h8 : s.draws = t.draws) : s = t := by
  cases s; cases t; simp_all

end Sys2Proof.Machine
end

