-- ==== Sys2Proof/Laws/Operands.lean ====
section
/-! SUPPORT. The operand forms: bits of packed, masked and modified bytes; registers and their addresses;
headers and frames. -/

namespace Sys2Proof.Machine

theorem byte_ext {x y : Byte} (h : ∀ p : Pin, bitOf x p = bitOf y p) : x = y :=
  BitVec.eq_of_getLsbD_eq fun i hi => h ⟨i, hi⟩

@[simp] theorem bitOf_packPins (f : Pin → Bool) (p : Pin) : bitOf (packPins f) p = f p := by
  fin_cases p <;> simp [bitOf, packPins, BitVec.getElem_cons]

@[simp] theorem bitOf_zero (p : Pin) : bitOf 0#8 p = false := by simp [bitOf]

@[simp] theorem bitOf_and (x y : Byte) (p : Pin) : bitOf (x &&& y) p = (bitOf x p && bitOf y p) := by
  simp [bitOf]

@[simp] theorem bitOf_or (x y : Byte) (p : Pin) : bitOf (x ||| y) p = (bitOf x p || bitOf y p) := by
  simp [bitOf]

@[simp] theorem bitOf_xor (x y : Byte) (p : Pin) : bitOf (x ^^^ y) p = (bitOf x p ^^ bitOf y p) := by
  simp [bitOf]

@[simp] theorem bitOf_not (x : Byte) (p : Pin) : bitOf (~~~ x) p = !bitOf x p := by
  simp [bitOf, p.isLt]

@[simp] theorem bitOf_maskOf (p q : Pin) : bitOf (maskOf p) q = decide (q = p) := by
  revert p q; decide

/-- Setting a bit leaves the other seven alone (40_register_access.md R93). -/
theorem bitOf_withBit (x : Byte) (p q : Pin) (v : Bool) :
    bitOf (withBit x p v) q = if q = p then v else bitOf x q := by
  unfold withBit; by_cases h : q = p <;> cases v <;> simp [h]

/-- Setting a bit to the value it has leaves the byte (R93). -/
theorem withBit_self (x : Byte) (p : Pin) : withBit x p (bitOf x p) = x :=
  byte_ext fun q => by rw [bitOf_withBit]; split <;> simp_all

/-- A byte is zero exactly when it has no bit set. -/
theorem byte_eq_zero_iff (x : Byte) : x = 0x00 ↔ ∀ p, bitOf x p = false :=
  ⟨fun h p => by simp [h], fun h => byte_ext fun p => by simp [h p]⟩

@[simp] theorem ofAddr_addr (r : Reg) : Reg.ofAddr r.addr = some r := by cases r <;> rfl

theorem addr_of_ofAddr {a : Byte} {r : Reg} (h : Reg.ofAddr a = some r) : a = r.addr := by
  revert h; revert a r; decide +revert

theorem addr_injective {r q : Reg} (h : r.addr = q.addr) : r = q := by
  have := congrArg Reg.ofAddr h; simpa using this

theorem addr_le (r : Reg) : r.addr ≤ 0x0A := by cases r <;> decide

theorem ofAddr_eq_none_iff (a : Byte) : Reg.ofAddr a = none ↔ 0x0A < a := by
  revert a; decide

/-- Below 0x0A the successor is at the next address (40_register_access.md R66). -/
theorem succReg_addr {r q : Reg} (h : succReg r = some q) : q.addr = r.addr + 1 := by
  cases r <;> simp [succReg] at h <;> subst h <;> rfl

theorem nextReg_addr (s : State) (r : Reg) :
    (nextReg s r).addr = if bitOf s.chip.iocon s.cfg.bitSeqop then r.addr
      else if r = .olat then s.cfg.seqWrap.addr else r.addr + 1 := by
  unfold nextReg
  split
  · rfl
  · cases r <;> simp [succReg] <;> rfl

/-- The bits of a header (30_encoding.md R54). -/
theorem getLsbD_headerOf (dev : DevAddr) (rd : Bool) (reg : Byte) (i : Nat) :
    (headerOf dev rd reg).getLsbD i =
      if i < 8 then reg.getLsbD i else if i = 8 then rd else dev.getLsbD (i - 9) := by
  have h := BitVec.getLsbD_append (x := dev ++ BitVec.ofBool rd) (y := reg) (i := i)
  refine h.trans ?_
  split
  · rfl
  · rw [BitVec.getLsbD_append]
    split
    · have : i = 8 := by omega
      simp [this]
    · have : i ≠ 8 := by omega
      simp only [this, if_false]
      congr 1

@[simp] theorem headerDev_headerOf (dev : DevAddr) (rd : Bool) (reg : Byte) :
    headerDev (headerOf dev rd reg) = dev := by
  apply BitVec.eq_of_getLsbD_eq
  intro i hi
  simp only [headerDev, BitVec.getLsbD_extractLsb, getLsbD_headerOf]
  have h1 : ¬ (9 + i < 8) := by omega
  have h2 : ¬ (9 + i = 8) := by omega
  simp [h1, h2, hi]

@[simp] theorem headerIsRead_headerOf (dev : DevAddr) (rd : Bool) (reg : Byte) :
    headerIsRead (headerOf dev rd reg) = rd := by
  simp [headerIsRead, getLsbD_headerOf, -BitVec.getLsbD_eq_getElem]

@[simp] theorem headerReg_headerOf (dev : DevAddr) (rd : Bool) (reg : Byte) :
    headerReg (headerOf dev rd reg) = reg := by
  apply BitVec.eq_of_getLsbD_eq
  intro i hi
  have h3 : i ≤ 7 := by omega
  simp [headerReg, getLsbD_headerOf, hi, h3, -BitVec.getLsbD_eq_getElem]

/-- The fields of a header make it up (R54). -/
theorem headerOf_fields (h : Header) : headerOf (headerDev h) (headerIsRead h) (headerReg h) = h := by
  apply BitVec.eq_of_getLsbD_eq
  intro i hi
  simp only [getLsbD_headerOf, headerDev, headerIsRead, headerReg, BitVec.getLsbD_extractLsb]
  split
  · have h3 : i < 8 := by omega
    simp [h3]
  · split
    · simp_all
    · have h3 : i - 9 < 7 := by omega
      have h4 : 9 + (i - 9) = i := by omega
      simp [h3, h4]

/-- The two bytes of a header, joined again. -/
@[simp] theorem joinHeader_bytes (h : Header) :
    joinHeader (h.extractLsb 15 8) (h.extractLsb 7 0) = h := by
  apply BitVec.eq_of_getLsbD_eq
  intro i hi
  have e := BitVec.getLsbD_append (x := h.extractLsb 15 8) (y := h.extractLsb 7 0) (i := i)
  refine e.trans ?_
  split
  · have h3 : i < 8 := by omega
    simp [h3]
  · have h3 : i - 8 < 8 := by omega
    have h4 : 8 + (i - 8) = i := by omega
    simp [h3, h4]

/-- A header split into its two bytes. -/
theorem headerBytes_joinHeader (hi lo : Byte) : headerBytes (joinHeader hi lo) = [hi, lo] := by
  have e := fun i => BitVec.getLsbD_append (x := hi) (y := lo) (i := i)
  have h1 : (joinHeader hi lo).extractLsb 15 8 = hi := by
    apply BitVec.eq_of_getLsbD_eq
    intro i hi'
    simp only [BitVec.getLsbD_extractLsb]
    refine (congrArg _ (e (8 + i))).trans ?_
    simp [hi']
  have h2 : (joinHeader hi lo).extractLsb 7 0 = lo := by
    apply BitVec.eq_of_getLsbD_eq
    intro i hi'
    have h4 : i < 8 := by omega
    simp only [BitVec.getLsbD_extractLsb]
    refine (congrArg _ (e (0 + i))).trans ?_
    simp [h4]
  simp [headerBytes, h1, h2]

end Sys2Proof.Machine
end

