-- ==== Sys2Proof/Laws/Comparator.lean ====
section
/-! SUPPORT. What the sampling of the pins and one evaluation can do: one specification lemma for each
shared operation of Ops and Flags. -/

namespace Sys2Proof.Machine

@[simp] theorem bitOf_levels (s : State) (p : Pin) : bitOf (levels s) p = pinLevel s p := by
  simp [levels]

/-- The read value of a pin is its level after input polarity (10_state.md R32). -/
theorem bitOf_sample (s : State) (p : Pin) : bitOf (sample s) p = (pinLevel s p ^^ bitOf s.chip.ipol p) := by
  simp [sample]

@[simp] theorem bitOf_cond (c : Chip) (x : Byte) (p : Pin) : bitOf (cond c x) p = condBit c x p := by
  simp [cond]

/-- The latch step writes INTF and INTCAP and nothing else (42_interrupt_comparator.md R104). -/
theorem latchStep_frame (a : Bool) (x : Byte) (c : Chip) :
    latchStep a x c = { c with intf := (latchStep a x c).intf, intcap := (latchStep a x c).intcap } := by
  unfold latchStep latch
  cases c; dsimp only; split <;> split <;> rfl

/-- INTF after the latch step (R104). -/
theorem latchStep_intf (a : Bool) (x : Byte) (c : Chip) :
    (latchStep a x c).intf =
      if c.intf = 0x00 then cond c x else if a then c.intf ||| cond c x else c.intf := by
  unfold latchStep latch
  dsimp only
  split <;> split <;> simp_all

/-- INTCAP after the latch step (R104). -/
theorem latchStep_intcap (a : Bool) (x : Byte) (c : Chip) :
    (latchStep a x c).intcap = if c.intf = 0x00 ∧ cond c x ≠ 0x00 then x else c.intcap := by
  unfold latchStep latch
  dsimp only
  split <;> split <;> simp_all

/-- The comparator input depends on the chip only through IODIR, IPOL, GPPU and OLAT, on the drive, the
parameter and the draws of the next sample. -/
theorem cmpInput_congr {s t : State} (hc : s.cfg = t.cfg) (he : s.ext = t.ext) (hd : s.draws = t.draws)
    (h1 : s.chip.iodir = t.chip.iodir) (h2 : s.chip.ipol = t.chip.ipol) (h3 : s.chip.gppu = t.chip.gppu)
    (h4 : s.chip.olat = t.chip.olat) : cmpInput s = cmpInput t := by
  have hl : pinLevel s = pinLevel t := by
    funext p; unfold pinLevel drawBit; rw [h1, h3, h4, he, hd]
  simp only [cmpInput, sample, levels, hl, hc, h2]

@[simp] theorem cmpInput_setPtr (s : State) (r : Reg) : cmpInput (s.setPtr r) = cmpInput s :=
  cmpInput_congr rfl rfl rfl rfl rfl rfl rfl

@[simp] theorem evaluate_cfg (s : State) : (evaluate s).cfg = s.cfg := rfl
@[simp] theorem evaluate_ext (s : State) : (evaluate s).ext = s.ext := rfl
@[simp] theorem evaluate_drivers (s : State) : (evaluate s).drivers = s.drivers := rfl
@[simp] theorem evaluate_replies (s : State) : (evaluate s).replies = s.replies := rfl
@[simp] theorem evaluate_schedule (s : State) : (evaluate s).schedule = s.schedule := rfl
@[simp] theorem evaluate_busEnv (s : State) : (evaluate s).busEnv = s.busEnv := rfl
@[simp] theorem evaluate_draws (s : State) : (evaluate s).draws = s.draws + 1 := rfl

/-- An evaluation writes INTF, INTCAP and PREV of the chip and nothing else of it (R104). -/
theorem evaluate_chip (s : State) : (evaluate s).chip =
    { s.chip with
      intf := (latchStep s.cfg.intfAccumulate (cmpInput s) s.chip).intf
      intcap := (latchStep s.cfg.intfAccumulate (cmpInput s) s.chip).intcap
      prev := cmpInput s } := by
  unfold evaluate
  simp only [State.tick_chip, State.setChip_chip]
  rw [latchStep_frame]

@[simp] theorem evaluate_iocon (s : State) : (evaluate s).chip.iocon = s.chip.iocon := by
  rw [evaluate_chip]

@[simp] theorem nextReg_evaluate (s : State) (r : Reg) : nextReg (evaluate s) r = nextReg s r := by
  unfold nextReg; rw [evaluate_iocon, evaluate_cfg]

@[simp] theorem devAddr_evaluate (s : State) : devAddr (evaluate s) = devAddr s := rfl
@[simp] theorem devAddr_setPtr (s : State) (r : Reg) : devAddr (s.setPtr r) = devAddr s := rfl
@[simp] theorem devAddr_pushReply (s : State) (r : Reply) : devAddr (s.pushReply r) = devAddr s := rfl
@[simp] theorem devAddr_takeBusCond (s : State) : devAddr s.takeBusCond = devAddr s := rfl

end Sys2Proof.Machine
end

