-- ==== Sys2Proof/Laws/PerInstr.lean ====
section
/-! SUPPORT. A law of each instruction as syntax: its encoding meets the mask and the match of its row of
spec/opcode_table.json, and carries its device address and its operands. -/

namespace Sys2Proof.Laws.TableRow

/-- The "match" of the instruction's row of spec/opcode_table.json. -/
def rowMatch : Instr → Header
  | .wrIodir _ _ => 0x4000
  | .rdIodir _ _ => 0x4100
  | .wrIpol _ _ => 0x4001
  | .rdIpol _ _ => 0x4101
  | .wrGpinten _ _ => 0x4002
  | .rdGpinten _ _ => 0x4102
  | .wrDefval _ _ => 0x4003
  | .rdDefval _ _ => 0x4103
  | .wrIntcon _ _ => 0x4004
  | .rdIntcon _ _ => 0x4104
  | .wrIocon _ _ => 0x4005
  | .rdIocon _ _ => 0x4105
  | .wrGppu _ _ => 0x4006
  | .rdGppu _ _ => 0x4106
  | .wrIntf _ _ => 0x4007
  | .rdIntf _ _ => 0x4107
  | .wrIntcap _ _ => 0x4008
  | .rdIntcap _ _ => 0x4108
  | .wrGpio _ _ => 0x4009
  | .rdGpio _ _ => 0x4109
  | .wrOlat _ _ => 0x400A
  | .rdOlat _ _ => 0x410A

/-- The header of a well-formed instruction under the mask 0xF1FF of 30_encoding.md R57 is its row's match,
and its upper seven bits are the device address. -/
def Statement (i : Instr) : Prop :=
  i.WellFormed = true →
    (encode i).header &&& 0xF1FF = rowMatch i ∧ headerDev (encode i).header = i.dev

/-- Every device address of the family gives a header that matches the row, at every register. -/
theorem header_matches (dev : DevAddr) (rd : Bool) (r : Reg) (h : (dev.extractLsb 6 3 == 0b0100#4) = true) :
    headerOf dev rd r.addr &&& 0xF1FF = 0x4000 ||| (if rd then 0x0100 else 0x0000) ||| r.addr.setWidth 16 := by
  have hall : ∀ d : DevAddr, (d.extractLsb 6 3 == 0b0100#4) = true →
      (d ++ BitVec.ofBool rd) &&& 0xF1#8 = 0x40 ||| (if rd then 0x01 else 0x00) := by
    cases rd <;> decide
  have hs : headerOf dev rd r.addr &&& 0xF1FF =
      ((dev ++ BitVec.ofBool rd) &&& 0xF1#8) ++ r.addr := by
    have : (0xF1FF : Header) = (0xF1#8 ++ 0xFF#8 : BitVec 16) := by decide
    rw [this]; unfold headerOf
    refine (BitVec.and_append (x₁ := dev ++ BitVec.ofBool rd)).trans ?_
    congr 1; cases r <;> rfl
  rw [hs, hall dev h]
  cases rd <;> cases r <;> rfl

/-- The law of a frame whose header is that of a row. -/
theorem frame_matches (dev : DevAddr) (rd : Bool) (r : Reg) (l : List Byte) (n : Nat) (m : Header)
    (h : (dev.extractLsb 6 3 == 0b0100#4) = true)
    (hm : 0x4000 ||| (if rd then 0x0100 else 0x0000) ||| r.addr.setWidth 16 = m) :
    let f : Frame := ⟨headerBytes (headerOf dev rd r.addr) ++ l, n⟩
    f.header &&& 0xF1FF = m ∧ headerDev f.header = dev := by
  have e : (⟨headerBytes (headerOf dev rd r.addr) ++ l, n⟩ : Frame).header = headerOf dev rd r.addr := by
    simp only [Frame.header, headerBytes, List.cons_append, Machine.joinHeader_bytes]
  simp only [e, Machine.headerDev_headerOf, and_true]
  exact (header_matches dev rd r h).trans hm

theorem wrIodir (dev : DevAddr) (data : List Byte) : Statement (.wrIodir dev data) :=
  fun h => frame_matches dev false .iodir data 0 _ h rfl
theorem rdIodir (dev : DevAddr) (count : Nat) : Statement (.rdIodir dev count) :=
  fun h => frame_matches dev true .iodir [] count _ h rfl
theorem wrIpol (dev : DevAddr) (data : List Byte) : Statement (.wrIpol dev data) :=
  fun h => frame_matches dev false .ipol data 0 _ h rfl
theorem rdIpol (dev : DevAddr) (count : Nat) : Statement (.rdIpol dev count) :=
  fun h => frame_matches dev true .ipol [] count _ h rfl
theorem wrGpinten (dev : DevAddr) (data : List Byte) : Statement (.wrGpinten dev data) :=
  fun h => frame_matches dev false .gpinten data 0 _ h rfl
theorem rdGpinten (dev : DevAddr) (count : Nat) : Statement (.rdGpinten dev count) :=
  fun h => frame_matches dev true .gpinten [] count _ h rfl
theorem wrDefval (dev : DevAddr) (data : List Byte) : Statement (.wrDefval dev data) :=
  fun h => frame_matches dev false .defval data 0 _ h rfl
theorem rdDefval (dev : DevAddr) (count : Nat) : Statement (.rdDefval dev count) :=
  fun h => frame_matches dev true .defval [] count _ h rfl
theorem wrIntcon (dev : DevAddr) (data : List Byte) : Statement (.wrIntcon dev data) :=
  fun h => frame_matches dev false .intcon data 0 _ h rfl
theorem rdIntcon (dev : DevAddr) (count : Nat) : Statement (.rdIntcon dev count) :=
  fun h => frame_matches dev true .intcon [] count _ h rfl
theorem wrIocon (dev : DevAddr) (data : List Byte) : Statement (.wrIocon dev data) :=
  fun h => frame_matches dev false .iocon data 0 _ h rfl
theorem rdIocon (dev : DevAddr) (count : Nat) : Statement (.rdIocon dev count) :=
  fun h => frame_matches dev true .iocon [] count _ h rfl
theorem wrGppu (dev : DevAddr) (data : List Byte) : Statement (.wrGppu dev data) :=
  fun h => frame_matches dev false .gppu data 0 _ h rfl
theorem rdGppu (dev : DevAddr) (count : Nat) : Statement (.rdGppu dev count) :=
  fun h => frame_matches dev true .gppu [] count _ h rfl
theorem wrIntf (dev : DevAddr) (data : List Byte) : Statement (.wrIntf dev data) :=
  fun h => frame_matches dev false .intf data 0 _ h rfl
theorem rdIntf (dev : DevAddr) (count : Nat) : Statement (.rdIntf dev count) :=
  fun h => frame_matches dev true .intf [] count _ h rfl
theorem wrIntcap (dev : DevAddr) (data : List Byte) : Statement (.wrIntcap dev data) :=
  fun h => frame_matches dev false .intcap data 0 _ h rfl
theorem rdIntcap (dev : DevAddr) (count : Nat) : Statement (.rdIntcap dev count) :=
  fun h => frame_matches dev true .intcap [] count _ h rfl
theorem wrGpio (dev : DevAddr) (data : List Byte) : Statement (.wrGpio dev data) :=
  fun h => frame_matches dev false .gpio data 0 _ h rfl
theorem rdGpio (dev : DevAddr) (count : Nat) : Statement (.rdGpio dev count) :=
  fun h => frame_matches dev true .gpio [] count _ h rfl
theorem wrOlat (dev : DevAddr) (data : List Byte) : Statement (.wrOlat dev data) :=
  fun h => frame_matches dev false .olat data 0 _ h rfl
theorem rdOlat (dev : DevAddr) (count : Nat) : Statement (.rdOlat dev count) :=
  fun h => frame_matches dev true .olat [] count _ h rfl

end Sys2Proof.Laws.TableRow
end

