-- ==== Sys2Proof/Laws/Transaction.lean ====
section
/-! SUPPORT. What an access, a transaction, a turn and a step can do. `Kept` packages the induction over the
accesses of a transaction once: a property that single accesses and environment steps keep is kept by every
instruction, and with the host's part by every step. -/

namespace Sys2Proof.Machine

/-- A write access writes one storage register of the chip (40_register_access.md R68 to R88). -/
theorem memWrite_eq (r : Reg) (b : Byte) (s : State) : memWrite r b s = s.setChip
    (match r with
      | .iodir => { s.chip with iodir := b }
      | .ipol => { s.chip with ipol := b }
      | .gpinten => { s.chip with gpinten := b }
      | .defval => { s.chip with defval := b }
      | .intcon => { s.chip with intcon := b }
      | .iocon => { s.chip with iocon := b &&& s.cfg.implMask }
      | .gppu => { s.chip with gppu := b }
      | .intf => s.chip
      | .intcap => s.chip
      | .gpio => { s.chip with olat := b }
      | .olat => { s.chip with olat := b }) := by
  cases r <;> rfl

/-- A read access changes nothing but INTF, and the sample count at GPIO (R69 to R89). -/
theorem memRead_eq (r : Reg) (s : State) : (memRead r s).2 =
    match r with
      | .intcap => s.setChip { s.chip with intf := 0x00 }
      | .gpio => (if s.cfg.gpioReadClears then s.setChip { s.chip with intf := 0x00 } else s).tick
      | .iodir | .ipol | .gpinten | .defval | .intcon | .iocon | .gppu | .intf | .olat => s := by
  cases r <;> rfl

/-- The bytes a read loop returns are as many as it was asked for. -/
theorem readLoop_length (r : Reg) (n : Nat) (gaps : List (List Ext)) (s : State) :
    (readLoop r n gaps s).1.length = n := by
  induction n generalizing r gaps s with
  | zero => rfl
  | succ n ih => simp [readLoop, ih]

/-- A property of states that every part of a transaction keeps. -/
structure KeptByBus (P : State → Prop) : Prop where
  write : ∀ r b s, P s → P (finishAccess r (memWrite r b s))
  read : ∀ r s, P s → P (finishAccess r (memRead r s).2)
  env : ∀ e s, P s → P (envStep s e)
  ptr : ∀ r s, P s → P (s.setPtr r)
  reply : ∀ r s, P s → P (s.pushReply r)
  bus : ∀ s, P s → P s.takeBusCond

theorem KeptByBus.envSteps {P : State → Prop} (k : KeptByBus P) (es : List Ext) :
    ∀ s, P s → P (envSteps s es) := by
  induction es with
  | nil => exact fun s h => h
  | cons e es ih => exact fun s h => ih _ (k.env e s h)

theorem KeptByBus.writeLoop {P : State → Prop} (k : KeptByBus P) (data : List Byte) :
    ∀ r gaps s, P s → P (writeLoop r data gaps s) := by
  induction data with
  | nil => exact fun _ _ s h => h
  | cons b bs ih => exact fun r gaps s h => ih _ _ _ (k.envSteps _ _ (k.write r b s h))

theorem KeptByBus.readLoop {P : State → Prop} (k : KeptByBus P) (n : Nat) :
    ∀ r gaps s, P s → P (readLoop r n gaps s).2 := by
  induction n with
  | zero => exact fun _ _ s h => h
  | succ n ih => exact fun r gaps s h => ih _ _ _ (k.envSteps _ _ (k.read r s h))

theorem KeptByBus.failedStart {P : State → Prop} (k : KeptByBus P) (r : Reg) (f : BusFailure) (n : Nat)
    (s : State) (h : P s) : P (failedStart r f n s) := by
  unfold Machine.failedStart; split
  · exact h
  · exact k.ptr r s h

theorem KeptByBus.writeTransaction {P : State → Prop} (k : KeptByBus P) {dev : DevAddr} {r : Reg}
    {data : List Byte} {s t : State} (h : P s) (e : writeTransaction dev r data s = .next t) : P t := by
  unfold Machine.writeTransaction at e
  dsimp only at e
  split at e
  · split at e <;> cases e
    · exact k.reply _ _ (k.writeLoop _ _ _ _ (k.ptr _ _ (k.bus _ h)))
    · exact k.reply _ _ (k.writeLoop _ _ _ _ (k.failedStart _ _ _ _ (k.bus _ h)))
  · cases e; exact k.reply _ _ h

theorem KeptByBus.readTransaction {P : State → Prop} (k : KeptByBus P) {dev : DevAddr} {r : Reg}
    {n : Nat} {s t : State} (h : P s) (e : readTransaction dev r n s = .next t) : P t := by
  unfold Machine.readTransaction at e
  dsimp only at e
  split at e
  · split at e <;> cases e
    · exact k.reply _ _ (k.readLoop _ _ _ _ (k.ptr _ _ (k.bus _ h)))
    · exact k.reply _ _ (k.readLoop _ _ _ _ (k.failedStart _ _ _ _ (k.bus _ h)))
  · cases e; exact k.reply _ _ h

/-- A transaction answers a next state whatever the state it meets. -/
theorem writeTransaction_next (dev : DevAddr) (r : Reg) (data : List Byte) (s : State) :
    ∃ t, writeTransaction dev r data s = .next t := by
  unfold writeTransaction
  dsimp only
  split
  · split <;> exact ⟨_, rfl⟩
  · exact ⟨_, rfl⟩

theorem readTransaction_next (dev : DevAddr) (r : Reg) (n : Nat) (s : State) :
    ∃ t, readTransaction dev r n s = .next t := by
  unfold readTransaction
  dsimp only
  split
  · split <;> exact ⟨_, rfl⟩
  · exact ⟨_, rfl⟩

/-- Every instruction is the write form or the read form of its register. -/
theorem instr_eq_form (i : Instr) :
    (∃ data, i = writeForm i.dev data i.reg) ∨ (∃ n, i = readForm i.dev n i.reg) := by
  cases i <;> first | exact .inl ⟨_, rfl⟩ | exact .inr ⟨_, rfl⟩

@[simp] theorem exec_writeForm (dev : DevAddr) (data : List Byte) (r : Reg) (s : State) :
    exec (writeForm dev data r) s = writeTransaction dev r data s := by
  cases r <;> rfl

@[simp] theorem exec_readForm (dev : DevAddr) (n : Nat) (r : Reg) (s : State) :
    exec (readForm dev n r) s = readTransaction dev r n s := by
  cases r <;> rfl

theorem KeptByBus.exec {P : State → Prop} (k : KeptByBus P) {i : Instr} {s t : State} (h : P s)
    (e : exec i s = .next t) : P t := by
  rcases instr_eq_form i with ⟨data, hi⟩ | ⟨n, hi⟩
  · rw [hi, exec_writeForm] at e; exact k.writeTransaction h e
  · rw [hi, exec_readForm] at e; exact k.readTransaction h e

theorem KeptByBus.transact {P : State → Prop} (k : KeptByBus P) {f : Frame} {s t : State} (h : P s)
    (e : transact f s = .next t) : P t := by
  unfold Machine.transact unlessForeign at e
  split at e
  · exact k.exec h e
  · cases e; exact k.reply _ _ h
  · split at e <;> cases e; exact k.reply _ _ h
  · split at e <;> cases e; exact k.reply _ _ h
  · split at e <;> cases e; exact k.reply _ _ h
  · cases e

/-- A sequence of outcomes that ends in a next state went through one. -/
theorem andThen_next {α β : Type} {o : Host.Outcome α Fault Refusal}
    {f : α → Host.Outcome β Fault Refusal} {b : β} (h : andThen o f = .next b) :
    ∃ a, o = .next a ∧ f a = .next b := by
  cases o with
  | next a => exact ⟨a, rfl, h⟩
  | fault r => cases h
  | refused r => cases h

/-- A move of an operation in progress changes the state by one transaction or not at all. -/
theorem scriptStep_cases {h : HostSide} {k : Script} {s : State} {t : State × Script}
    (e : scriptStep h k s = .next t) : t.1 = s ∨ ∃ f, transact f s = .next t.1 := by
  cases k <;> simp only [scriptStep, busRead, busWrite] at e
  case done => cases e; exact .inl rfl
  case qualify => cases e; exact .inl rfl
  all_goals
    obtain ⟨a, h1, h2⟩ := andThen_next e
    obtain ⟨b, h3, h4⟩ := andThen_next h1
    cases h2; cases h4
    exact .inr ⟨_, h3⟩

/-- A property that every turn keeps: the bus's part, a chip reset, and any change of the drivers or the
schedule. -/
structure KeptByTurns (P : State → Prop) : Prop extends KeptByBus P where
  reset : ∀ s, P s → P (chipReset s)
  drivers : ∀ ds s, P s → P (s.setDrivers ds)
  schedule : ∀ ts s, P s → P (s.setSchedule ts)

theorem KeptByTurns.contextMove {P : State → Prop} (k : KeptByTurns P) {d c : Nat} {drv : Driver}
    {ctx : Context} {s t : State} (h : P s) (e : contextMove d drv c ctx s = .next t) : P t := by
  unfold Machine.contextMove at e
  split at e
  · obtain ⟨a, h1, h2⟩ := andThen_next e
    cases h2
    apply k.drivers
    rcases scriptStep_cases h1 with h3 | ⟨f, h3⟩
    · rw [h3]; exact h
    · exact k.transact h h3
  · split at e
    · cases e; exact h
    · dsimp only at e
      split at e <;> cases e
      · exact k.drivers _ _ h
      · exact k.drivers _ _ h

theorem KeptByTurns.takeTurn {P : State → Prop} (k : KeptByTurns P) {u : Turn} {s t : State} (h : P s)
    (e : takeTurn u s = .next t) : P t := by
  cases u with
  | direct f => exact k.transact h e
  | host d c =>
    simp only [Machine.takeTurn, hostTurn] at e
    split at e
    · cases e; exact h
    · split at e
      · cases e; exact h
      · exact k.contextMove h e
  | environ x => cases e; exact k.env _ _ h
  | chipReset => cases e; exact k.reset _ h
  | hostRestart d =>
    simp only [Machine.takeTurn, hostRestart] at e
    split at e <;> cases e
    · exact h
    · exact k.drivers _ _ h

/-- What every turn keeps, every step keeps. -/
theorem KeptByTurns.step {P : State → Prop} (k : KeptByTurns P) {s t : State} (h : P s)
    (e : step s = .next t) : P t := by
  unfold Machine.step nextTurn at e
  split at e
  · cases e; exact h
  · exact k.takeTurn (k.schedule _ _ h) e

end Sys2Proof.Machine
end

