-- ==== Sys2Proof/Tests/Slice0.lean ====
section
/-! SUPPORT. The model's own tests. Every expected value is transcribed from spec/95_test_vectors.md (the vector's
name stands in the theorem's docstring) or written out from the spec's encodings; the last part gives, for each
statement with hypotheses, a state and operands that meet them together. -/

namespace Sys2Proof.Tests

open Sys2Proof.Machine

/-- The reset state with the chip changed. -/
def chipOf (f : Chip → Chip) : State := State.reset.setChip (f State.reset.chip)

/-- `s` with pin `p` driven as `d`. -/
def driving (s : State) (p : Pin) (d : Drive) : State := s.setExt (s.ext.set p d)

/-- `s` with one failure of the next transaction. -/
def failing (s : State) (after : Nat) (ptrSet : Bool) : State :=
  { s with busEnv := [⟨some ⟨after, ptrSet⟩, []⟩] }

/-- The next state, if there is one. -/
def answered {α : Type} (o : Host.Outcome α Fault Refusal) : Option α :=
  match o with
  | .next s => some s
  | .fault _ | .refused _ => none

/-- The fault, if it is one. -/
def faulted {α : Type} (o : Host.Outcome α Fault Refusal) : Option Fault :=
  match o with
  | .fault r => some r
  | .next _ | .refused _ => none

def chipAfter (o : Host.Outcome State Fault Refusal) : Option Chip := (answered o).map State.chip

/-- The reply a transaction gave. -/
def replyAfter (o : Host.Outcome State Fault Refusal) : Option Reply := (answered o).bind fun s => s.replies.head?

/-- A host bound to the chip at 0x20 with every slot NONE. -/
def host : HostSide := .fresh

/-- That host with the mode of one pin set. -/
def hostWith (p : Pin) (m : TrigMode) (h : HostSide) : HostSide := { h with mode := h.mode.set p m }

/-- The result and the chip of a host operation. -/
def ran (op : HostOp) (h : HostSide) (s : State) : Option (OpResult × Chip) :=
  (answered (runOp op h s)).map fun t => (t.2.2, t.1.chip)

/-! ### Well-formedness refuses -/

theorem test_wf_instr_device : (Instr.wrIodir 0x40 []).WellFormed = false ∧ (Instr.rdOlat 0x28 1).WellFormed = false ∧
    (Instr.rdGpio 0x1F 1).WellFormed = false ∧ (Instr.wrIodir 0x27 []).WellFormed = true := by decide
theorem test_wf_direction : (HostOp.setDirection 2 (.bad 5)).WellFormed = false := by decide
theorem test_wf_level : (HostOp.writePin 2 (.bad 2)).WellFormed = false := by decide
theorem test_wf_mode : (HostOp.enableInterrupt 3 6).WellFormed = false ∧ (HostOp.enableInterrupt 3 7).WellFormed = false ∧
    (HostOp.enableInterrupt 3 5).WellFormed = true := by decide
theorem test_wf_field : (HostOp.setConfigField (.bad 4) true).WellFormed = false ∧
    (HostOp.getConfigField (.bad 4)).WellFormed = false := by decide
theorem test_wf_polarity : (HostOp.setInterruptPolarity (.bad 2)).WellFormed = false := by decide
theorem test_wf_drive : (HostOp.setInterruptDrive (.bad 2)).WellFormed = false := by decide

/-! ### Decoding -/

/-- T1 to T5: headers written out bit by bit. -/
theorem test_decode_words :
    decodeTableWord 16 0b0100000000000000 = some (.wrIodir 0b0100000 []) ∧
    decodeTableWord 16 0b0100000100001001 = some (.rdGpio 0b0100000 0) ∧
    decodeTableWord 16 0b0100011000000000 = some (.wrIodir 0b0100011 []) ∧
    decodeTableWord 16 0b0100101000000101 = some (.wrIocon 0b0100101 []) ∧
    decodeTableWord 16 0b0100101100001000 = some (.rdIntcap 0b0100101 0) := by decide
/-- 30_encoding.md R58, R59: none of the 22 forms. -/
theorem test_decode_rejects :
    decode ⟨[0x80, 0x00], 0⟩ = .error (.foreignDevice 0x40) ∧
    decode ⟨[0x41, 0x0B], 1⟩ = .error (.reservedRegister 0x20 0x0B) ∧
    decode ⟨[0x40, 0xFF, 0x00], 0⟩ = .error (.reservedRegister 0x20 0xFF) ∧
    decode ⟨[0x40, 0x00], 1⟩ = .error (.writeWithCount 0x20) ∧
    decode ⟨[0x41, 0x00, 0x00], 1⟩ = .error (.readWithData 0x20) ∧
    decode ⟨[0x40], 0⟩ = .error .noHeader := by decide
/-- A data byte above the header of a table word. -/
theorem test_decode_data : decodeTableWord 24 0xF04000 = some (.wrIodir 0x20 [0xF0]) := by decide

/-! ### The register access forms -/

/-- A1. -/
theorem test_wrIodir : (chipAfter (exec (.wrIodir 0x20 [0xF0]) State.reset)).map (fun c => (c.iodir, c.ptr)) =
    some (0xF0, 0x01) := by decide
/-- T12. -/
theorem test_wrIodir_two : (chipAfter (exec (.wrIodir 0x20 [0x0F, 0x01]) State.reset)).map
    (fun c => (c.iodir, c.ipol, c.ptr)) = some (0x0F, 0x01, 0x02) := by decide
/-- A2. -/
theorem test_rdIodir : replyAfter (exec (.rdIodir 0x20 1) State.reset) = some (.bytes [0xFF]) := by decide
/-- T16. -/
theorem test_rdIodir_all :
    let s := chipOf fun c => { c with intf := 0x01, intcap := 0x01 }
    replyAfter (exec (.rdIodir 0x20 11) s) =
      some (.bytes [0xFF, 0x00, 0x00, 0x00, 0x00, 0x00, 0x00, 0x01, 0x01, 0x00, 0x00]) ∧
    (chipAfter (exec (.rdIodir 0x20 11) s)).map Chip.intf = some 0x00 := by decide
/-- A3. -/
theorem test_wrIpol : (chipAfter (exec (.wrIpol 0x20 [0x04]) (driving State.reset 2 .high))).map
    (fun c => (c.ipol, c.prev)) = some (0x04, 0x00) := by decide
/-- C10. -/
theorem test_wrIpol_latches : (chipAfter (exec (.wrIpol 0x20 [0x01]) (chipOf fun c => { c with gpinten := 0x01 }))).map
    (fun c => (c.intf, c.intcap)) = some (0x01, 0x01) := by decide
/-- A4. -/
theorem test_rdIpol : replyAfter (exec (.rdIpol 0x20 1) (chipOf fun c => { c with ipol := 0x04 })) =
    some (.bytes [0x04]) := by decide
/-- A5. -/
theorem test_wrGpinten : (chipAfter (exec (.wrGpinten 0x20 [0x01]) State.reset)).map (fun c => (c.gpinten, c.intf)) =
    some (0x01, 0x00) := by decide
/-- A6. -/
theorem test_wrGpinten_latches :
    (chipAfter (exec (.wrGpinten 0x20 [0x01])
      (driving (chipOf fun c => { c with intcon := 0x01, prev := 0x01 }) 0 .high))).map
    (fun c => (c.intf, c.intcap)) = some (0x01, 0x01) := by decide
/-- A7. -/
theorem test_rdGpinten : replyAfter (exec (.rdGpinten 0x20 1) State.reset) = some (.bytes [0x00]) := by decide
/-- A8. -/
theorem test_wrDefval_latches :
    (chipAfter (exec (.wrDefval 0x20 [0x01]) (chipOf fun c => { c with gpinten := 0x01, intcon := 0x01 }))).map
    (fun c => (c.defval, c.intf, c.intcap)) = some (0x01, 0x01, 0x00) := by decide
/-- A9. -/
theorem test_wrDefval_unused :
    (chipAfter (exec (.wrDefval 0x20 [0x01]) (chipOf fun c => { c with gpinten := 0x01 }))).map
    (fun c => (c.defval, c.intf)) = some (0x01, 0x00) := by decide
/-- A10. -/
theorem test_rdDefval : replyAfter (exec (.rdDefval 0x20 1) (chipOf fun c => { c with defval := 0x20 })) =
    some (.bytes [0x20]) := by decide
/-- A11. -/
theorem test_wrIntcon_latches :
    (chipAfter (exec (.wrIntcon 0x20 [0x01])
      (driving (chipOf fun c => { c with gpinten := 0x01, prev := 0x01 }) 0 .high))).map
    (fun c => (c.intcon, c.intf, c.intcap)) = some (0x01, 0x01, 0x01) := by decide
/-- A12, with the latch that the start implies not pending. -/
theorem test_wrIntcon_no_latch :
    (chipAfter (exec (.wrIntcon 0x20 [0x00])
      (driving (chipOf fun c => { c with gpinten := 0x01, intcon := 0x01, prev := 0x01 }) 0 .high))).map
    (fun c => (c.intcon, c.intf)) = some (0x00, 0x00) := by decide
/-- A13. -/
theorem test_rdIntcon : replyAfter (exec (.rdIntcon 0x20 1) State.reset) = some (.bytes [0x00]) := by decide
/-- A14. -/
theorem test_wrIocon : (chipAfter (exec (.wrIocon 0x20 [0xFF]) State.reset)).map Chip.iocon = some 0x3E := by decide
/-- T15. -/
theorem test_wrIocon_seqop : (chipAfter (exec (.wrIocon 0x20 [0x20, 0x11, 0x44]) State.reset)).map
    (fun c => (c.iocon, c.gppu, c.ptr)) = some (0x10, 0x44, 0x07) := by decide
/-- A16. -/
theorem test_rdIocon : replyAfter (exec (.rdIocon 0x20 1) (chipOf fun c => { c with iocon := 0x3E })) =
    some (.bytes [0x3E]) := by decide
/-- A17. -/
theorem test_wrGppu : (chipAfter (exec (.wrGppu 0x20 [0x80]) (driving State.reset 7 .undriven))).map
    (fun c => (c.gppu, c.prev)) = some (0x80, 0x80) := by decide
/-- A18. -/
theorem test_rdGppu : replyAfter (exec (.rdGppu 0x20 1) (chipOf fun c => { c with gppu := 0x28 })) =
    some (.bytes [0x28]) := by decide
/-- A19. -/
theorem test_wrIntf : (chipAfter (exec (.wrIntf 0x20 [0x00]) (chipOf fun c => { c with intf := 0x01, intcap := 0x01 }))).map
    (fun c => (c.intf, c.intcap)) = some (0x01, 0x01) := by decide
/-- A20. -/
theorem test_rdIntf :
    let s := chipOf fun c => { c with intf := 0x05 }
    replyAfter (exec (.rdIntf 0x20 1) s) = some (.bytes [0x05]) ∧
    (chipAfter (exec (.rdIntf 0x20 1) s)).map Chip.intf = some 0x05 := by decide
/-- A21. -/
theorem test_wrIntcap :
    (chipAfter (exec (.wrIntcap 0x20 [0xFF]) (chipOf fun c => { c with intf := 0x01, intcap := 0x01 }))).map
    (fun c => (c.intf, c.intcap)) = some (0x01, 0x01) := by decide
/-- A22. -/
theorem test_rdIntcap :
    let s := chipOf fun c => { c with intf := 0x05, intcap := 0x01 }
    replyAfter (exec (.rdIntcap 0x20 1) s) = some (.bytes [0x01]) ∧
    (chipAfter (exec (.rdIntcap 0x20 1) s)).map (fun c => (c.intf, c.intcap)) = some (0x00, 0x01) := by decide
/-- C12: the level condition stands, so the read latches again. -/
theorem test_rdIntcap_again :
    let s := driving (chipOf fun c => { c with gpinten := 0x01, intcon := 0x01, intf := 0x01, intcap := 0x01, prev := 0x01 }) 0 .high
    replyAfter (exec (.rdIntcap 0x20 1) s) = some (.bytes [0x01]) ∧
    (chipAfter (exec (.rdIntcap 0x20 1) s)).map (fun c => (c.intf, c.intcap)) = some (0x01, 0x01) := by decide
/-- A24. -/
theorem test_wrGpio :
    (chipAfter (exec (.wrGpio 0x20 [0xA5])
      { (chipOf fun c => { c with iodir := 0x00 }) with ext := Vector.replicate 8 .undriven })).map
    (fun c => (c.olat, c.prev)) = some (0xA5, 0xA5) := by decide
/-- A25. -/
theorem test_wrGpio_inputs : (chipAfter (exec (.wrGpio 0x20 [0x3C]) State.reset)).map (fun c => (c.olat, c.prev)) =
    some (0x3C, 0x00) := by decide
/-- A26. -/
theorem test_rdGpio :
    replyAfter (exec (.rdGpio 0x20 1) (State.reset.setExt ((Vector.replicate 8 .high).set 7 .low))) =
      some (.bytes [0x7F]) := by decide
/-- T13: GPIO, OLAT, wrap to IODIR. -/
theorem test_rdGpio_wraps :
    let s := chipOf fun c => { c with olat := 0x55 }
    replyAfter (exec (.rdGpio 0x20 3) s) = some (.bytes [0x00, 0x55, 0xFF]) ∧
    (chipAfter (exec (.rdGpio 0x20 3) s)).map Chip.ptr = some 0x01 := by decide
/-- T14. -/
theorem test_wrOlat_stays : (chipAfter (exec (.wrOlat 0x20 [0x01, 0x02, 0x03]) (chipOf fun c => { c with iocon := 0x20 }))).map
    (fun c => (c.olat, c.ptr)) = some (0x03, 0x0A) := by decide
/-- C9: an output pin takes part in the comparator. -/
theorem test_wrOlat_latches :
    (chipAfter (exec (.wrOlat 0x20 [0x01])
      (driving (chipOf fun c => { c with iodir := 0xFE, gpinten := 0x01 }) 0 .undriven))).map
    (fun c => (c.intf, c.intcap)) = some (0x01, 0x01) := by decide
/-- A30. -/
theorem test_rdOlat : replyAfter (exec (.rdOlat 0x20 1) (chipOf fun c => { c with olat := 0x08 })) =
    some (.bytes [0x08]) := by decide
/-- T6. -/
theorem test_other_strap :
    let s : State := { State.reset with cfg := { Params.default with strap := 1 } }
    replyAfter (exec (.wrIodir 0x20 [0x00]) s) = some .busError ∧
    chipAfter (exec (.wrIodir 0x20 [0x00]) s) = some s.chip := by decide
/-- T9, T10, T11. -/
theorem test_reserved :
    faulted (transact (.read 0x20 0x0B 1) State.reset) = some (.reservedRegister 0x0B) ∧
    faulted (transact (.write 0x20 0xFF [0x00]) State.reset) = some (.reservedRegister 0xFF) ∧
    faulted (transact (.read 0x20 0x0B 0) State.reset) = some (.reservedRegister 0x0B) := by decide
/-- T17: the three outcomes of a failed write of two bytes. -/
theorem test_failed_write :
    (chipAfter (exec (.wrIodir 0x20 [0x0F, 0x01]) (failing State.reset 0 false))).map (fun c => (c.iodir, c.ipol)) =
      some (0xFF, 0x00) ∧
    (chipAfter (exec (.wrIodir 0x20 [0x0F, 0x01]) (failing State.reset 1 false))).map (fun c => (c.iodir, c.ipol)) =
      some (0x0F, 0x00) ∧
    (chipAfter (exec (.wrIodir 0x20 [0x0F, 0x01]) (failing State.reset 2 false))).map (fun c => (c.iodir, c.ipol)) =
      some (0x0F, 0x01) := by decide

/-! ### Comparator, latch, reset -/

/-- C1, and C2's step. -/
theorem test_change_latch :
    let s := chipOf fun c => { c with gpinten := 0x01 }
    let t := envStep s (s.ext.set 0 .high)
    (t.chip.intf, t.chip.intcap, t.chip.prev) = (0x01, 0x01, 0x01) := by decide
/-- C5, with and without accumulation. -/
theorem test_second_pin :
    let s := driving (chipOf fun c => { c with gpinten := 0x03, intf := 0x01, intcap := 0x01, prev := 0x01 }) 0 .high
    let u : State := { s with cfg := { s.cfg with intfAccumulate := true } }
    ((envStep s (s.ext.set 1 .high)).chip.intf, (envStep u (s.ext.set 1 .high)).chip.intf,
      (envStep u (s.ext.set 1 .high)).chip.intcap) = (0x01, 0x03, 0x01) := by decide
/-- The table of the interrupt output. -/
theorem test_interrupt_output :
    let at_ := fun (io f : Byte) => intPin (chipOf fun c => { c with iocon := io, intf := f })
    (at_ 0x00 0x00, at_ 0x00 0x01) = (.drivenHigh, .drivenLow) ∧
    (at_ 0x02 0x00, at_ 0x02 0x01) = (.drivenLow, .drivenHigh) ∧
    (at_ 0x04 0x00, at_ 0x04 0x01) = (.highImpedance, .drivenLow) ∧
    (at_ 0x06 0x00, at_ 0x06 0x01) = (.highImpedance, .drivenLow) := by decide
/-- "Reset: with EXT[0] = H": PREV is 0x01 after it; and the reset state is what a chip reset leaves. -/
theorem test_chip_reset : (chipReset (driving State.reset 0 .high)).chip.prev = 0x01 ∧
    (chipReset State.reset).chip = State.reset.chip := by decide
/-- A word of the table placed at reset is the first instruction run. -/
theorem test_first_step : replyAfter (step (State.reset.withFetchWord 16 0x4000)) = some .ok ∧
    (chipAfter (step (State.reset.withFetchWord 24 0xF04000))).map Chip.iodir = some 0xF0 := by decide

/-! ### Host operations -/

/-- B1. -/
theorem test_readRegister : (ran (.readRegister 0x00) host State.reset).map Prod.fst = some (.byte 0xFF) := by decide
/-- B2. -/
theorem test_writeRegister : (ran (.writeRegister 0x06 0x28) host State.reset).map (fun r => (r.1, r.2.gppu)) =
    some (.ok, 0x28) := by decide
/-- B3. -/
theorem test_setBit : (ran (.setBit 0x06 5 true) host (chipOf fun c => { c with gppu := 0x08 })).map
    (fun r => (r.1, r.2.gppu)) = some (.ok, 0x28) := by decide
/-- B8; and 70_reset_and_hazards.md R146, setBit on GPIO copies the sampled levels into OLAT. -/
theorem test_setBit_special :
    (ran (.setBit 0x08 0 true) host (chipOf fun c => { c with intf := 0x01, intcap := 0x01 })).map
      (fun r => (r.1, r.2.intf, r.2.intcap)) = some (.ok, 0x00, 0x01) ∧
    (ran (.setBit 0x09 0 true) host (driving State.reset 4 .high)).map (fun r => (r.1, r.2.olat)) =
      some (.ok, 0x11) := by decide
/-- B11, R-6. -/
theorem test_readRegister_reserved :
    faulted (runOp (.readRegister 0x0C) host State.reset) = some (.reservedRegister 0x0C) := by decide
/-- P1 and W1's third row. -/
theorem test_setDirection : (ran (.setDirection 3 (.val .output)) host State.reset).map (fun r => (r.1, r.2.iodir)) =
    some (.ok, 0xF7) := by decide
/-- P12. -/
theorem test_setDirection_bad : faulted (runOp (.setDirection 2 (.bad 5)) host State.reset) =
    some (.badOperand (.setDirection 2 (.bad 5))) := by decide
/-- P2. -/
theorem test_writePin : (ran (.writePin 3 (.val true)) host State.reset).map (fun r => (r.1, r.2.olat)) =
    some (.ok, 0x08) := by decide
/-- P5 and P6. -/
theorem test_readPin :
    (ran (.readPin 4) host (driving (chipOf fun c => { c with ipol := 0x10 }) 4 .high)).map Prod.fst = some (.level false) ∧
    (ran (.readPin 4) host (driving State.reset 4 .high)).map Prod.fst = some (.level true) := by decide
/-- P7, and R-5: the bounds check comes before any transaction. -/
theorem test_readPin_bounds :
    let s : State := { failing State.reset 0 false with cfg := { Params.default with invalidPin := .explicit } }
    (ran (.readPin 9) host State.reset).map Prod.fst = some (.level false) ∧
    (ran (.readPin 9) host s).map Prod.fst = some .invalidPin := by decide
/-- P8. -/
theorem test_setPullUp : (ran (.setPullUp 3 true) host State.reset).map (fun r => (r.1, r.2.gppu)) =
    some (.ok, 0x08) := by decide
/-- P9. -/
theorem test_setInputPolarity : (ran (.setInputPolarity 4 true) host State.reset).map (fun r => (r.1, r.2.ipol)) =
    some (.ok, 0x10) := by decide
/-- P10. -/
theorem test_readPort : (ran .readPort host (driving (driving State.reset 0 .high) 1 .high)).map Prod.fst =
    some (.byte 0x03) := by decide
/-- P11. -/
theorem test_writePort : (ran (.writePort 0xA5) host State.reset).map (fun r => (r.1, r.2.olat)) =
    some (.ok, 0xA5) := by decide
/-- W8, its last row and the paragraph after the table. -/
theorem test_enableInterrupt_level : (ran (.enableInterrupt 1 5) host State.reset).map
    (fun r => (r.1, r.2.gpinten, r.2.intcon, r.2.defval, r.2.intf, r.2.intcap)) =
    some (.ok, 0x02, 0x02, 0x02, 0x02, 0x00) := by decide
/-- Program P6: the third transaction fails, and the shadow already holds the mode. -/
theorem test_enableInterrupt_fails :
    (answered (runOp (.enableInterrupt 1 4) host
      { State.reset with busEnv := [.quiet, .quiet, ⟨some ⟨0, false⟩, []⟩] })).map
    (fun t => (t.2.2, t.1.chip.gpinten, t.1.chip.intcon, t.2.1.mode[1], t.1.replies.length)) =
    some (.busError, 0x02, 0x00, .levelHigh, 3) := by decide
/-- Q16. -/
theorem test_disableInterrupt :
    (answered (runOp (.disableInterrupt 0) (hostWith 0 .change (hostWith 5 .levelLow host))
      (chipOf fun c => { c with gpinten := 0x21 }))).map
    (fun t => (t.2.2, t.1.chip.gpinten, t.2.1.mode[0], t.2.1.mode[5])) = some (.ok, 0x20, .none, .levelLow) := by decide
/-- Q1 and Q2 (W4). -/
theorem test_evaluatePending :
    let s := chipOf fun c => { c with intf := 0x05, intcap := 0x01 }
    (ran .evaluatePendingInterrupts (hostWith 0 .rising (hostWith 2 .falling host)) s).map
      (fun r => (r.1, r.2.intf)) = some (.byte 0x05, 0x00) ∧
    (ran .evaluatePendingInterrupts (hostWith 0 .falling (hostWith 2 .rising host)) s).map
      (fun r => (r.1, r.2.intf)) = some (.byte 0x00, 0x00) := by decide
/-- Q3 and Q10: a pending pin without a mode; the first read fails. -/
theorem test_evaluatePending_lost :
    let s := chipOf fun c => { c with intf := 0x01, intcap := 0x01 }
    (ran .evaluatePendingInterrupts host s).map (fun r => (r.1, r.2.intf)) = some (.byte 0x00, 0x00) ∧
    (ran .evaluatePendingInterrupts (hostWith 0 .rising host) (failing s 0 true)).map (fun r => (r.1, r.2.intf)) =
      some (.busError, 0x01) := by decide
/-- Q12. -/
theorem test_setConfigField : (ran (.setConfigField (.val .seqop) true) host State.reset).map (fun r => (r.1, r.2.iocon)) =
    some (.ok, 0x20) := by decide
/-- Q13. -/
theorem test_getConfigField : (ran (.getConfigField (.val .odr)) host (chipOf fun c => { c with iocon := 0x04 })).map
    Prod.fst = some (.flag true) := by decide
/-- W3, its first row. -/
theorem test_setInterruptPolarity :
    (ran (.setInterruptPolarity (.val .activeHigh)) host (chipOf fun c => { c with iocon := 0x04 })).map
    (fun r => r.2.iocon) = some 0x06 := by decide
/-- Q14. -/
theorem test_getInterruptPolarity : (ran .getInterruptPolarity host (chipOf fun c => { c with iocon := 0x02 })).map
    Prod.fst = some (.polarity .activeHigh) := by decide
/-- W3, its last row. -/
theorem test_setInterruptDrive :
    (ran (.setInterruptDrive (.val .openDrain)) host (chipOf fun c => { c with iocon := 0x30 })).map
    (fun r => r.2.iocon) = some 0x34 := by decide
/-- Q15. -/
theorem test_getInterruptDrive : (ran .getInterruptDrive host (chipOf fun c => { c with iocon := 0x06 })).map
    Prod.fst = some (.drive .openDrain) := by decide
/-- R-1 and R-4. -/
theorem test_begin :
    (answered (runOp (.beginOp 0) host State.reset)).map
      (fun t => (t.2.2, t.2.1.addr, t.1.replies.length, t.1.chip.iodir)) = some (.ok, 0x20, 7, 0xFF) ∧
    (ran (.beginOp 0) host (chipOf fun c => { c with iocon := 0x30 })).map (fun r => r.2.iocon) = some 0x30 := by decide
/-- R-2: the strap clamps to 7. -/
theorem test_begin_clamps : (answered (runOp (.beginOp 9) host State.reset)).map
    (fun t => (t.2.2, t.2.1.addr, t.1.chip)) = some (.busError, 0x27, State.reset.chip) := by decide

/-- 60_exceptions.md R124, the result codes. -/
theorem test_result_codes : resultCode .ok = 0 ∧ resultCode (.level false) = 0 ∧ resultCode .busError = 1 ∧
    resultCode .invalidPin = 2 := by decide

/-- 43_interrupt_operations.md R113, step 1: the first move of enableInterrupt records the mode and touches no
register. -/
theorem test_first_move :
    (answered (step { State.reset with
      drivers := [⟨.fresh, [⟨[.enableInterrupt 1 4], none, []⟩]⟩], schedule := [.host 0 0] })).map
    (fun t => (t.drivers[0]?.map fun d => d.side.mode[1], t.replies.length, t.chip.gpinten)) =
    some (some .levelHigh, 0, 0x00) := by decide
/-! ### Witnesses: the hypotheses of each statement, met together -/

/-- A quiet bus: every statement about one form (WritesOneByte, ReadsStored, ZeroLengthSetsPointerOnly,
RdIntcapReturnsCaptureAndClears, RdGpioReturnsPins). -/
theorem witness_quiet : Quiet State.reset := by unfold Quiet; decide
/-- A host at the chip's address on a bus that stays quiet: every statement about a host operation. -/
theorem witness_reaches : Reaches host State.reset := by unfold Reaches; decide
/-- WrIodirStoresDirection: a pin made an output, undriven, and driven. -/
theorem witness_wrIodir : bitOf 0x7F 7 = false ∧ (driving State.reset 7 .undriven).ext[(7 : Pin)] = .undriven ∧
    State.reset.ext[(7 : Pin)] ≠ .undriven := by decide
/-- WrDefvalStoresReference: a pin compared against PREV. -/
theorem witness_wrDefval : bitOf State.reset.chip.intcon 0 = false := by decide
/-- WrGppuStoresPullUps: a floating input with its pull-up on; an output; a driven input. -/
theorem witness_wrGppu :
    let s := driving State.reset 0 .undriven
    (bitOf s.chip.iodir 0 = true ∧ s.ext[(0 : Pin)] = .undriven ∧ bitOf 0x01 0 = true) ∧
    bitOf (chipOf fun c => { c with iodir := 0xFE }).chip.iodir 0 = false ∧
    State.reset.ext[(0 : Pin)] ≠ .undriven := by decide
/-- WrGpioStoresOutputLatch: an input, and an output that nothing else drives. -/
theorem witness_wrGpio :
    let s := driving (chipOf fun c => { c with iodir := 0xFE }) 0 .undriven
    bitOf s.chip.iodir 7 = true ∧ bitOf s.chip.iodir 0 = false ∧ s.ext[(0 : Pin)] = .undriven := by decide
/-- RdIoconReturnsImplementedBits: the invariant, and bits outside the mask at both ends. -/
theorem witness_inv : RegInv (chipOf fun c => { c with iocon := 0x3E, ptr := 0x0A }) ∧
    bitOf State.reset.cfg.implMask 0 = false ∧ bitOf State.reset.cfg.implMask 7 = false := by unfold RegInv; decide
/-- RdIntfReturnsFlagsUncleared. -/
theorem witness_rdIntf :
    let s := chipOf fun c => { c with intf := 0x05 }
    Quiet s ∧ (∃ t, exec (.rdIntf (devAddr s) 1) s = .next t) ∧ s.chip.intf ≠ 0x00 ∧ s.cfg.intfAccumulate = false :=
  ⟨by unfold Quiet; decide, ⟨_, rfl⟩, by decide, by decide⟩
/-- LongWriteIsChainOfWrites, LongReadIsChainOfReads: environment steps inside a transaction. -/
theorem witness_gaps : { State.reset with busEnv := [⟨none, [[State.reset.ext], []]⟩] }.busEnv =
    ⟨none, [[State.reset.ext], []]⟩ :: [] := by decide
/-- NonSequentialWriteStaysAtRegister. -/
theorem witness_seqop :
    let s := chipOf fun c => { c with iocon := 0x20 }
    Quiet s ∧ bitOf s.chip.iocon s.cfg.bitSeqop = true := by unfold Quiet; decide
/-- FailedTransactionPerformsPrefix, FailedReadStopsSetBit: a failure for each clause, the pointer set or an access
made, and neither. -/
theorem witness_failure :
    (failing State.reset 0 true).busEnv = ⟨some ⟨0, true⟩, []⟩ :: [] ∧
    (failing State.reset 1 false).busEnv = ⟨some ⟨1, false⟩, []⟩ :: [] ∧
    (failing State.reset 0 false).busEnv = ⟨some ⟨0, false⟩, []⟩ :: [] ∧
    host.addr = devAddr (failing State.reset 0 true) := by decide
/-- OtherDeviceNotAcknowledged: a neighbour and a device outside the family. -/
theorem witness_foreign : (0x21 : DevAddr) ≠ devAddr State.reset ∧ (0x1F : DevAddr) ≠ devAddr State.reset ∧
    (Instr.rdGpio 0x21 1).dev = 0x21 := by decide
/-- ReservedRegisterFaults, at both ends; TransactionFrame's address. -/
theorem witness_reserved : (0x0A : Byte) < 0x0B ∧ (0x0A : Byte) < 0xFF ∧ ¬ (0x0A : Byte) < 0x0A ∧
    (Instr.rdOlat 0x20 0).dev = devAddr State.reset := by decide
/-- ReadFormsKeepStorage and ChipBlindToHosts. -/
theorem witness_transaction : (∃ t, exec (readForm 0x20 2 .gpio) State.reset = .next t) ∧
    ∃ t, transact (.read 0x20 0x09 2) State.reset = .next t := ⟨⟨_, rfl⟩, ⟨_, rfl⟩⟩
/-- PinLevelTable: a pin for each row. -/
theorem witness_levels :
    let s := driving (driving (chipOf fun c => { c with iodir := 0x0F, gppu := 0x04 }) 0 .high) 2 .undriven
    let u := driving (driving s 3 .undriven) 7 .undriven
    (bitOf u.chip.iodir 0 = true ∧ u.ext[(0 : Pin)] = .high) ∧ (bitOf u.chip.iodir 1 = true ∧ u.ext[(1 : Pin)] = .low) ∧
    (bitOf u.chip.iodir 2 = true ∧ u.ext[(2 : Pin)] = .undriven ∧ bitOf u.chip.gppu 2 = true) ∧
    (bitOf u.chip.iodir 3 = true ∧ u.ext[(3 : Pin)] = .undriven ∧ bitOf u.chip.gppu 3 = false) ∧
    (bitOf u.chip.iodir 7 = false ∧ u.ext[(7 : Pin)] = .undriven) ∧
    bitOf u.chip.iodir 6 = false ∧ u.ext[(6 : Pin)] ≠ .undriven := by decide
/-- PendingFlagsSurvive, for instructions: a write; a read of eight bytes, the longest from 0x00 that stops short of
INTCAP; a read of nine of which a failure performs eight; RD.GPIO that does not clear. -/
theorem witness_pending :
    let s := chipOf fun c => { c with intf := 0x01 }
    let keep : State := { s with cfg := { Params.default with gpioReadClears := false } }
    s.chip.intf ≠ 0x00 ∧
    (ClearsNothing (.wrIntf 0x20 [0xFF]) s ∧ ∃ t, exec (.wrIntf 0x20 [0xFF]) s = .next t) ∧
    (ClearsNothing (.rdIodir 0x20 8) s ∧ ∃ t, exec (.rdIodir 0x20 8) s = .next t) ∧
    (ClearsNothing (.rdIodir 0x20 9) (failing s 8 false) ∧ ∃ t, exec (.rdIodir 0x20 9) (failing s 8 false) = .next t) ∧
    (ClearsNothing (.rdGpio 0x20 1) keep ∧ ∃ t, exec (.rdGpio 0x20 1) keep = .next t) := by
  refine ⟨by decide, ⟨?_, _, rfl⟩, ⟨?_, _, rfl⟩, ⟨?_, _, rfl⟩, ⟨?_, _, rfl⟩⟩ <;>
    (intro dev n r h _; cases r <;> cases h; try decide)
/-- PendingFlagsSurvive, its edge: a ninth byte from 0x00 reaches INTCAP, and GPIO clears by default. -/
theorem witness_pending_edge :
    (readOrder State.reset .iodir 8).any (clearsFlags .default) = false ∧
    (readOrder State.reset .iodir 9).any (clearsFlags .default) = true ∧
    clearsFlags .default .gpio = true := by decide
/-- PendingFlagsSurvive, for steps: a host context's read of INTF. -/
theorem witness_pending_step :
    let s : State := { (chipOf fun c => { c with intf := 0x01 }) with
      drivers := [⟨.fresh, [⟨[], some .readPending, []⟩]⟩], schedule := [.host 0 0] }
    s.chip.intf ≠ 0x00 ∧
    (∀ u ts, s.schedule = u :: ts → u ≠ .chipReset ∧
      ∀ f i, turnFrame u s = some f → decode f = .ok i → ClearsNothing i s) ∧ ∃ t, step s = .next t := by
  refine ⟨by decide, ?_, _, rfl⟩
  intro u ts h
  cases h
  refine ⟨by decide, ?_⟩
  intro f i hf hd dev n r hi _
  cases hf; cases hd
  cases r <;> cases hi; decide
/-- ChangeLatchCapturesNewValue. -/
theorem witness_change :
    let s := driving (chipOf fun c => { c with gpinten := 0x01 }) 0 .high
    s.chip.intf = 0x00 ∧ bitOf s.chip.intcon 0 = false ∧ bitOf (evaluate s).chip.intf 0 = true := by decide
/-- InterruptOutputTable: each value of the two fields, with a flag and without. -/
theorem witness_output :
    let io := fun (x f : Byte) => chipOf fun c => { c with iocon := x, intf := f }
    (bitOf (io 0x04 0x80).chip.iocon 2 = true ∧ (io 0x04 0x80).chip.intf ≠ 0x00 ∧ (io 0x04 0x00).chip.intf = 0x00) ∧
    (bitOf (io 0x02 0x80).chip.iocon 2 = false ∧ bitOf (io 0x02 0x80).chip.iocon 1 = true) ∧
    bitOf (io 0x00 0x80).chip.iocon 2 = false ∧ bitOf (io 0x00 0x80).chip.iocon 1 = false := by decide
/-- StepKeepsLevelsLatched, with a level pin enabled and nothing latched; StepKeepsRegisterInvariant and
ParametersFixed: a state that steps. -/
theorem witness_invariants :
    let s : State := { (chipOf fun c => { c with gpinten := 0x80, intcon := 0x80 }) with
      schedule := [.direct (.read 0x20 0x08 1)] }
    LevelsLatched s ∧ RegInv s ∧ s.chip.intf = 0x00 ∧ ∃ t, step s = .next t :=
  ⟨by unfold LevelsLatched; decide, by unfold RegInv; decide, by decide, ⟨_, rfl⟩⟩
/-- EnvironmentStepEvaluates, ChipResetTurn, HostRestartLosesShadow, StepRunsDecodedInstruction: a schedule that
starts with the turn. -/
theorem witness_turns :
    { State.reset with schedule := [.environ State.reset.ext] }.schedule = .environ State.reset.ext :: [] ∧
    { State.reset with schedule := [.chipReset] }.schedule = .chipReset :: [] ∧
    { State.reset with schedule := [.hostRestart 0] }.schedule = .hostRestart 0 :: [] ∧
    State.reset.drivers[0]? = some ⟨.fresh, [⟨[], none, []⟩]⟩ ∧
    (State.reset.withFetchWord 16 0x4009).schedule = .direct ⟨[0x40, 0x09], 0⟩ :: [] ∧
    decode ⟨[0x40, 0x09], 0⟩ = .ok (.wrGpio 0x20 []) ∧ State.reset.schedule = [] := by decide
/-- DecodeEncode and EncodeDecode. -/
theorem witness_encoding : (Instr.rdGpio 0x27 3).WellFormed = true ∧
    decode ⟨[0x4F, 0x09], 3⟩ = .ok (.rdGpio 0x27 3) := by decide
/-- DecoderIsTheOpcodeMap: its clauses at the first and the last row. -/
theorem witness_map : (0x4000 : Header) &&& 0xF1FF = 0x4000 ||| Reg.iodir.addr.setWidth 16 ∧
    (0x4F0A : Header) &&& 0xF1FF = 0x4100 ||| Reg.olat.addr.setWidth 16 := by decide
/-- RegisterOperationsAreOneTransaction: a reply of each kind, and a fault of each. -/
theorem witness_register_operations :
    replyAfter (transact (.read host.addr 0x00 1) State.reset) = some (.bytes [0xFF]) ∧
    replyAfter (transact (.read host.addr 0x00 1) (failing State.reset 0 true)) = some .busError ∧
    replyAfter (transact (.write host.addr 0x0A [0x01]) State.reset) = some .ok ∧
    replyAfter (transact (.write host.addr 0x0A [0x01]) (failing State.reset 0 true)) = some .busError ∧
    faulted (transact (.read host.addr 0x0B 1) State.reset) = some (.reservedRegister 0x0B) ∧
    faulted (transact (.write host.addr 0x0B [0x01]) State.reset) = some (.reservedRegister 0x0B) := by decide
/-- SetBitChangesOneBit: a plain register at each end of the map; which registers are not plain; a reserved address
at each end. -/
theorem witness_plain : (plainStored .iodir).isSome = true ∧ (plainStored .olat).isSome = true ∧
    (plainStored .iocon).isNone = true ∧ (plainStored .intf).isNone = true ∧ (plainStored .intcap).isNone = true ∧
    (plainStored .gpio).isNone = true ∧ (0x0A : Byte) < 0x0B ∧ (0x0A : Byte) < 0xFF := by decide
/-- StopsOnlyByName: a directly issued frame that asks bytes back of a write. -/
theorem witness_malformed : decode ⟨[0x40, 0x00], 1⟩ = .error (.writeWithCount 0x20) ∧
    answered (step { State.reset with schedule := [.direct ⟨[0x40, 0x00], 1⟩] }) = none := by decide
/-- PullUpOrderIndependent. -/
theorem witness_no_pull_ups : State.reset.chip.gppu = 0x00 := by decide
/-- OutOfRangePinIsNoOp, at both ends. -/
theorem witness_out_of_range : ((-1 : Int) < 0 ∨ 7 < (-1 : Int)) ∧ ((8 : Int) < 0 ∨ 7 < (8 : Int)) := by decide
/-- BadOperandFaults: a mode code outside its type, and an operation of well-typed operands. -/
theorem witness_bad_operand : 5 < (6 : BitVec 3).toNat ∧ 5 < (7 : BitVec 3).toNat ∧
    (HostOp.enableInterrupt 9 5).WellFormed = true := by decide
/-- EnableInterruptConfiguresPin: a mode of each kind. -/
theorem witness_modes : TrigMode.rising ≠ .none ∧ TrigMode.levelHigh ≠ .none ∧ TrigMode.levelLow ≠ .none := by decide
/-- DisableInterruptClearsEnable, EvaluatePendingReportsQualified: a pending flag at a chip the host reaches. -/
theorem witness_pending_reached :
    let s := chipOf fun c => { c with intf := 0x01, gpinten := 0x01 }
    Reaches host s ∧ s.chip.intf ≠ 0x00 ∧ bitOf s.chip.intf 0 = true ∧ (hostWith 0 .rising host).mode[(0 : Pin)] ≠ .none := by
  unfold Reaches; decide
/-- ConfigFieldIsolation: every field is an implemented bit at the default parameters. -/
theorem witness_fields : Reaches host State.reset ∧ RegInv State.reset ∧
    bitOf State.reset.cfg.implMask (fieldBit State.reset.cfg .intpol) = true ∧
    bitOf State.reset.cfg.implMask (fieldBit State.reset.cfg .odr) = true ∧
    bitOf State.reset.cfg.implMask (fieldBit State.reset.cfg .disslw) = true ∧
    bitOf State.reset.cfg.implMask (fieldBit State.reset.cfg .seqop) = true := by unfold Reaches RegInv; decide
/-- BeginInitialisesChip: the chip's address, and another, with the clamp. -/
theorem witness_begin : State.reset.busEnv = [] ∧ (0x20 ||| BitVec.ofNat 7 (min 0 7) : DevAddr) = devAddr State.reset ∧
    (0x20 ||| BitVec.ofNat 7 (min 9 7) : DevAddr) ≠ devAddr State.reset := by decide
/-- LostUpdate: the write of another master, and that of another context of the same driver, between the two moves of
a setBit. -/
theorem witness_lost_update :
    let ctx : Context := ⟨[], some (.rmw 0x06 3 true (.done .ok)), []⟩
    let other : Context := ⟨[], some (.write 0x06 0x80 (.done .ok)), []⟩
    let drv : Driver := ⟨.fresh, [ctx, other]⟩
    let s : State := { State.reset with drivers := [drv] }
    Reaches drv.side s ∧ (plainStored .gppu).isSome = true ∧ s.drivers[0]? = some drv ∧
    drv.contexts[0]? = some ctx ∧ ctx.running = some (.rmw Reg.gppu.addr 3 true (.done .ok)) ∧
    Turn.host 0 1 ≠ .host 0 0 ∧
    turnFrame (.direct (.write 0x20 0x06 [0x80])) s = some (.write (devAddr s) Reg.gppu.addr [0x80]) ∧
    turnFrame (.host 0 1) s = some (.write (devAddr s) Reg.gppu.addr [0x80]) := by
  unfold Reaches; decide
/-- UninterruptedMovesAreRunScript: an operation in progress whose script runs to a result. -/
theorem witness_moves :
    let ctx : Context := ⟨[], some .readPending, []⟩
    let s : State := { State.reset with drivers := [⟨.fresh, [ctx]⟩] }
    s.drivers[0]? = some ⟨.fresh, [ctx]⟩ ∧ ctx.running = some .readPending ∧
    ∃ t r, runScript HostSide.fresh .readPending s = .next (t, r) := ⟨by decide, by decide, ⟨_, _, rfl⟩⟩
/-- UninterruptedMovesAreRunScript: an operation not yet begun that issues transactions, one that returns at once, and
one with an operand outside its type. -/
theorem witness_start :
    let ctx : Context := ⟨[.enableInterrupt 1 4, .readPort], none, []⟩
    let s : State := { State.reset with drivers := [⟨.fresh, [ctx]⟩], schedule := [.host 0 0] }
    s.drivers[0]? = some ⟨.fresh, [ctx]⟩ ∧ ctx.running = none ∧
    ctx.program = .enableInterrupt 1 4 :: [.readPort] ∧ s.schedule = .host 0 0 :: [] ∧
    (∃ h k, launch (.enableInterrupt 1 4) s.cfg HostSide.fresh = .runs h k) ∧
    launch (.enableInterrupt 1 6) s.cfg HostSide.fresh = .bad ∧
    (answered (runOp (.enableInterrupt 1 4) HostSide.fresh s)).isSome = true ∧
    (answered (runOp (.setBit 0x06 8 true) HostSide.fresh s)).isSome = true :=
  ⟨by decide, rfl, rfl, rfl, ⟨_, _, rfl⟩, by decide, by decide, by decide⟩

end Sys2Proof.Tests
end

section
/-! The whole state after a transaction of one byte on a quiet bus: one evaluation as a formula on bytes
(42_interrupt_comparator.md R104), the end of an access, and from them the write and the read forms. -/

namespace Sys2Proof.Machine

/-- The comparator's condition is R103's formula on bytes. -/
theorem cond_eq_flagsOf (c : Chip) (x : Byte) : cond c x = flagsOf c x :=
  byte_ext fun p => by
    rw [bitOf_cond, condBit, flagsOf]
    cases h : bitOf c.intcon p <;> simp [h, bne]

/-- One evaluation, the whole state (R104). -/
theorem evaluate_eq (s : State) : evaluate s =
    { s with chip := chipAfterEvaluation s.cfg.intfAccumulate (cmpInput s) s.chip, draws := s.draws + 1 } := by
  have hchip : (evaluate s).chip = chipAfterEvaluation s.cfg.intfAccumulate (cmpInput s) s.chip := by
    rw [evaluate_chip, latchStep_intf, latchStep_intcap, cond_eq_flagsOf]
    rfl
  exact State.eq_of_fields rfl hchip rfl rfl rfl rfl rfl rfl

/-- The pointer's successor is at R66's address. -/
theorem nextReg_addr_eq_addressAfter (s : State) (r : Reg) :
    (nextReg s r).addr = addressAfter s.cfg s.chip r := by
  have holat : r = .olat ↔ r.addr = 0x0A := ⟨fun h => h ▸ rfl, fun h => addr_injective (q := .olat) h⟩
  simp only [nextReg_addr, addressAfter, holat]

/-- The end of the access that left the chip `c`, and the reply, wherever the access began. -/
theorem finishAccess_pushReply (r : Reg) (reply : Reply) (c : Chip) (ptr : Byte) (n : Nat) (s : State) :
    (finishAccess r { s with chip := { c with ptr := ptr }, draws := n, busEnv := s.busEnv.tail }).pushReply
      reply = afterOneByte r reply c n s := by
  have hin : cmpInput { s with chip := { c with ptr := ptr }, draws := n, busEnv := s.busEnv.tail } =
      cmpInput { s with chip := c, draws := n } := cmpInput_congr rfl rfl rfl rfl rfl rfl rfl
  simp only [finishAccess, nextReg_evaluate]
  rw [State.setPtr, nextReg_addr_eq_addressAfter, evaluate_eq, hin]
  rfl

/-- The chip after a write access at a register (40_register_access.md R68 to R88). -/
def chipAfterWrite (r : Reg) (cfg : Params) (b : Byte) (c : Chip) : Chip :=
  match r with
  | .iodir => { c with iodir := b }
  | .ipol => { c with ipol := b }
  | .gpinten => { c with gpinten := b }
  | .defval => { c with defval := b }
  | .intcon => { c with intcon := b }
  | .iocon => { c with iocon := b &&& cfg.implMask }
  | .gppu => { c with gppu := b }
  | .intf | .intcap => c
  | .gpio | .olat => { c with olat := b }

/-- A write access is its change of the chip. -/
theorem memWrite_eq_setChip (r : Reg) (b : Byte) (s : State) :
    memWrite r b s = s.setChip (chipAfterWrite r s.cfg b s.chip) := by
  rw [memWrite_eq]; cases r <;> rfl

/-- A write access neither reads nor moves the pointer. -/
theorem chipAfterWrite_ptr (r : Reg) (cfg : Params) (b ptr : Byte) (c : Chip) :
    chipAfterWrite r cfg b { c with ptr := ptr } = { chipAfterWrite r cfg b c with ptr := ptr } := by
  cases r <;> rfl

/-- A write of one byte on a quiet bus is one access and its end (R64). -/
theorem writeTransaction_single {s : State} (hq : Quiet s) (r : Reg) (b : Byte) :
    writeTransaction (devAddr s) r [b] s =
      .next ((finishAccess r (memWrite r b (s.takeBusCond.setPtr r))).pushReply .ok) := by
  have hq : s.busCond = .quiet := hq
  simp only [writeTransaction, if_true, hq]
  rfl

/-- A read of one byte on a quiet bus is one access and its end (R65). -/
theorem readTransaction_single {s : State} (hq : Quiet s) (r : Reg) :
    readTransaction (devAddr s) r 1 s =
      .next ((finishAccess r (memRead r (s.takeBusCond.setPtr r)).2).pushReply
        (.bytes [(memRead r (s.takeBusCond.setPtr r)).1])) := by
  have hq : s.busCond = .quiet := hq
  simp only [readTransaction, if_true, hq]
  rfl

/-- The header of a write form names its device and its register (30_encoding.md R54). -/
@[simp] theorem header_encode_writeForm (dev : DevAddr) (data : List Byte) (r : Reg) :
    (encode (writeForm dev data r)).header = headerOf dev false r.addr := by
  have henc : encode (writeForm dev data r) = .write dev r.addr data := by cases r <;> rfl
  rw [henc]
  exact joinHeader_bytes _

/-- The header of a read form names its device and its register (R54). -/
@[simp] theorem header_encode_readForm (dev : DevAddr) (n : Nat) (r : Reg) :
    (encode (readForm dev n r)).header = headerOf dev true r.addr := by
  have henc : encode (readForm dev n r) = .read dev r.addr n := by cases r <;> rfl
  rw [henc]
  exact joinHeader_bytes _

/-- The header of a form at the chip's address is R57's number. -/
theorem headerOf_devAddr (s : State) (rd : Bool) (r : Reg) :
    headerOf (devAddr s) rd r.addr = formHeader s (if rd then 0x0100 else 0x0000) (r.addr.setWidth 16) := by
  have strap_bits : ∀ x : BitVec 3, headerOf (0x20 ||| x.setWidth 7) rd r.addr =
      0x4000 ||| (x.setWidth 16 <<< 9) ||| (if rd then 0x0100 else 0x0000) ||| r.addr.setWidth 16 := by
    cases r <;> cases rd <;> decide
  exact strap_bits s.cfg.strap

/-- Every write form of one byte: its header, and the whole next state (R57, R64). -/
theorem writesOneByte_writeForm (r : Reg) :
    WritesOneByte (writeForm · · r) r (r.addr.setWidth 16) (chipAfterWrite r) := by
  intro s b hq
  constructor
  · exact (header_encode_writeForm _ _ r).trans (headerOf_devAddr s false r)
  · rw [exec_writeForm, writeTransaction_single hq, memWrite_eq_setChip, State.setPtr_chip, chipAfterWrite_ptr]
    exact congrArg _ (finishAccess_pushReply r .ok _ r.addr s.draws s)

/-- Every read form of one byte whose access returns a field of the chip and changes nothing (R57, R65). -/
theorem readsStored_readForm {r : Reg} {val : Chip → Byte} (hread : ∀ s, memRead r s = (val s.chip, s))
    (hptr : ∀ (c : Chip) (ptr : Byte), val { c with ptr := ptr } = val c) :
    ReadsStored (readForm · · r) r (r.addr.setWidth 16) val := by
  intro s hq
  constructor
  · exact (header_encode_readForm _ _ r).trans (headerOf_devAddr s true r)
  · rw [exec_readForm, readTransaction_single hq, hread, State.setPtr_chip, hptr]
    exact congrArg _ (finishAccess_pushReply r _ s.chip r.addr s.draws s)

/-- A read access of a plain storage register returns the stored byte and changes nothing (R69 to R81, R89). -/
theorem memRead_plain {r : Reg} {val : Chip → Byte} (h : plainStored r = some val) (s : State) :
    memRead r s = (val s.chip, s) := by
  cases r <;> cases h <;> rfl

/-- The stored byte of a plain storage register is not the pointer's. -/
theorem plainStored_ptr {r : Reg} {val : Chip → Byte} (h : plainStored r = some val) (c : Chip) (ptr : Byte) :
    val { c with ptr := ptr } = val c := by
  cases r <;> cases h <;> rfl

/-- Every read form of one byte of a plain storage register. -/
theorem readsStored_plain (r : Reg) {val : Chip → Byte} (h : plainStored r = some val) :
    ReadsStored (readForm · · r) r (r.addr.setWidth 16) val :=
  readsStored_readForm (memRead_plain h) (plainStored_ptr h)

end Sys2Proof.Machine
end

section
/-! The level of a pin, one rule for each kind of pin of 10_state.md R31. -/

namespace Sys2Proof.Machine

/-- An output that nothing else drives is at its OLAT bit. -/
theorem pinLevel_output_undriven {s : State} {p : Pin} (ho : bitOf s.chip.iodir p = false)
    (hz : s.ext[p] = .undriven) : pinLevel s p = bitOf s.chip.olat p := by
  simp [pinLevel, ho, hz]

/-- A contended output is at a draw. -/
theorem pinLevel_output_driven {s : State} {p : Pin} (ho : bitOf s.chip.iodir p = false)
    (hd : s.ext[p] ≠ .undriven) : pinLevel s p = drawBit s p := by
  cases he : s.ext[p] with
  | undriven => exact absurd he hd
  | low | high => simp [pinLevel, ho, he]

/-- A floating input is at 1 by its pull-up, or at a draw. -/
theorem pinLevel_input_floating {s : State} {p : Pin} (hi : bitOf s.chip.iodir p = true)
    (hz : s.ext[p] = .undriven) : pinLevel s p = (bitOf s.chip.gppu p || drawBit s p) := by
  cases hg : bitOf s.chip.gppu p <;> simp [pinLevel, hi, hz, hg]

/-- The draw of the next sample depends on the sample's number only. -/
@[simp] theorem drawBit_setChip (s : State) (c : Chip) (p : Pin) : drawBit (s.setChip c) p = drawBit s p := rfl

/-- GPPU has no effect on an output or on a driven input (40_register_access.md R80). -/
theorem pinLevel_setGppu {s : State} {p : Pin} (b : Byte)
    (h : bitOf s.chip.iodir p = false ∨ s.ext[p] ≠ .undriven) :
    pinLevel (s.setChip { s.chip with gppu := b }) p = pinLevel s p := by
  rcases h with ho | hd
  · simp [pinLevel, ho]
  · cases he : s.ext[p] with
    | undriven => exact absurd he hd
    | low | high => simp [pinLevel, he]

/-- OLAT has no effect on an input (R86). -/
theorem pinLevel_setOlat {s : State} {p : Pin} (b : Byte) (hi : bitOf s.chip.iodir p = true) :
    pinLevel (s.setChip { s.chip with olat := b }) p = pinLevel s p := by
  unfold pinLevel
  exact (if_pos hi).trans (if_pos hi).symm

/-- DEFVAL has no effect on a pin that is compared against PREV (R74, R103). -/
theorem bitOf_flagsOf_setDefval {c : Chip} {p : Pin} (b x : Byte) (hprev : bitOf c.intcon p = false) :
    bitOf (flagsOf { c with defval := b } x) p = bitOf (flagsOf c x) p := by
  simp [flagsOf, hprev]

end Sys2Proof.Machine
end

section
/-! The statements about one access of one register. -/

namespace Sys2Proof.Machine

/-- Settles O5: the write form's next state, then R31's two rows of an output. -/
theorem wrIodirStoresDirection : Obligations.WrIodirStoresDirection :=
  ⟨writesOneByte_writeForm .iodir, fun s b _ ho =>
    ⟨pinLevel_output_undriven (s := s.setChip { s.chip with iodir := b }) ho,
     pinLevel_output_driven (s := s.setChip { s.chip with iodir := b }) ho⟩⟩

/-- Settles O6: the write form's next state, and R103's formula where INTCON is 0. -/
theorem wrDefvalStoresReference : Obligations.WrDefvalStoresReference :=
  ⟨writesOneByte_writeForm .defval, fun _ b x _ hprev => bitOf_flagsOf_setDefval b x hprev⟩

/-- Settles O7: the write form's next state, and R31's rows in which GPPU does and does not stand. -/
theorem wrGppuStoresPullUps : Obligations.WrGppuStoresPullUps := by
  refine ⟨writesOneByte_writeForm .gppu, fun s b p => ⟨fun hi hz hb => ?_, pinLevel_setGppu b⟩⟩
  calc pinLevel (s.setChip { s.chip with gppu := b }) p
      = (bitOf b p || drawBit s p) := pinLevel_input_floating (s := s.setChip _) hi hz
    _ = true := by simp [hb]

/-- Settles O8: the write form's next state, and R31's rows of an input and of an undriven output. -/
theorem wrGpioStoresOutputLatch : Obligations.WrGpioStoresOutputLatch :=
  ⟨writesOneByte_writeForm .gpio, fun s b _ =>
    ⟨pinLevel_setOlat b, pinLevel_output_undriven (s := s.setChip { s.chip with olat := b })⟩⟩

/-- Settles O12: each of the seven registers is a plain storage register. -/
theorem rdStorageReturnsStoredByte : Obligations.RdStorageReturnsStoredByte :=
  ⟨readsStored_plain .iodir rfl, readsStored_plain .ipol rfl, readsStored_plain .gpinten rfl,
   readsStored_plain .defval rfl, readsStored_plain .intcon rfl, readsStored_plain .gppu rfl,
   readsStored_plain .olat rfl⟩

end Sys2Proof.Machine
end

section
/-! readRegister and writeRegister as one transaction (40_register_access.md R91, R92). -/

namespace Sys2Proof.Machine

/-- readRegister is one read of one byte, whose byte it returns if it gave one (R91). -/
theorem runOp_readRegister (a : Byte) (h : HostSide) (s : State) :
    runOp (.readRegister a) h s = andThen (transact (.read h.addr a 1) s) fun t =>
      .next (t, h, (lastByte t).elim .busError .byte) := by
  simp only [runOp, launch, launchReadRegister, runScript, busRead]
  cases transact (.read h.addr a 1) s with
  | next t => cases hb : lastByte t <;> simp [andThen, hb, useByte]
  | fault e => rfl
  | refused e => rfl

/-- writeRegister is one write of one byte, and ok if that was (R92). -/
theorem runOp_writeRegister (a b : Byte) (h : HostSide) (s : State) :
    runOp (.writeRegister a b) h s = andThen (transact (.write h.addr a [b]) s) fun t =>
      .next (t, h, if lastOk t then .ok else .busError) := by
  simp only [runOp, launch, launchWriteRegister, runScript, busWrite]
  cases transact (.write h.addr a [b]) s with
  | next t => cases hb : lastOk t <;> simp [andThen, hb]
  | fault e => rfl
  | refused e => rfl

/-- Settles O44: what each kind of newest reply makes of the one transaction. -/
theorem registerOperationsAreOneTransaction : Obligations.RegisterOperationsAreOneTransaction := by
  intro h s a b
  rw [runOp_readRegister, runOp_writeRegister]
  refine ⟨?_, ?_, ?_, ?_, ?_, ?_⟩
  · intro t x rs ht hr
    simp [ht, andThen, lastByte, hr]
  · intro t rs ht hr
    simp [ht, andThen, lastByte, hr]
  · intro t rs ht hr
    simp [ht, andThen, lastOk, hr]
  · intro t rs ht hr
    simp [ht, andThen, lastOk, hr]
  · intro e he
    rw [he, andThen]
  · intro e he
    rw [he, andThen]

end Sys2Proof.Machine
end

section
/-! Which flags the host qualifies, mode by mode (43_interrupt_operations.md R115). -/

namespace Sys2Proof.Machine

/-- NONE: a pin without a mode is never reported. -/
@[simp] theorem qualify_none (captured : Bool) : qualify .none captured = false := rfl

/-- RISING: the level captured at the latch must be high. -/
@[simp] theorem qualify_rising (captured : Bool) : qualify .rising captured = captured := rfl

/-- FALLING: the level captured at the latch must be low. -/
@[simp] theorem qualify_falling (captured : Bool) : qualify .falling captured = !captured := rfl

/-- CHANGE: either edge counts. -/
@[simp] theorem qualify_change (captured : Bool) : qualify .change captured = true := rfl

/-- LEVEL_HIGH: the comparator has decided already. -/
@[simp] theorem qualify_levelHigh (captured : Bool) : qualify .levelHigh captured = true := rfl

/-- LEVEL_LOW: the comparator has decided already. -/
@[simp] theorem qualify_levelLow (captured : Bool) : qualify .levelLow captured = true := rfl

/-- Settles O43: each mode's row is its equation, read at both captured bits. -/
theorem qualificationTable : Obligations.QualificationTable :=
  ⟨⟨qualify_none false, qualify_none true⟩,
   ⟨qualify_rising false, qualify_rising true⟩,
   ⟨qualify_falling false, qualify_falling true⟩,
   ⟨qualify_change false, qualify_change true⟩,
   ⟨qualify_levelHigh false, qualify_levelHigh true⟩,
   ⟨qualify_levelLow false, qualify_levelLow true⟩⟩

end Sys2Proof.Machine
end

section
/-! The decoder as an equivalence: which frames decode to a register's write form and read form, field by
field (30_encoding.md R53, R54) and under the opcode map's mask (R57). -/

namespace Sys2Proof.Machine

/-- The encoding of a write form (R53). -/
@[simp] theorem encode_writeForm (dev : DevAddr) (data : List Byte) (r : Reg) :
    encode (writeForm dev data r) = .write dev r.addr data := by cases r <;> rfl

/-- The encoding of a read form (R53). -/
@[simp] theorem encode_readForm (dev : DevAddr) (n : Nat) (r : Reg) :
    encode (readForm dev n r) = .read dev r.addr n := by cases r <;> rfl

@[simp] theorem dev_writeForm (dev : DevAddr) (data : List Byte) (r : Reg) :
    (writeForm dev data r).dev = dev := by cases r <;> rfl

@[simp] theorem dev_readForm (dev : DevAddr) (n : Nat) (r : Reg) : (readForm dev n r).dev = dev := by
  cases r <;> rfl

@[simp] theorem reg_writeForm (dev : DevAddr) (data : List Byte) (r : Reg) :
    (writeForm dev data r).reg = r := by cases r <;> rfl

@[simp] theorem reg_readForm (dev : DevAddr) (n : Nat) (r : Reg) : (readForm dev n r).reg = r := by
  cases r <;> rfl

theorem writeForm_inj {dev dev' : DevAddr} {data data' : List Byte} {r r' : Reg} :
    writeForm dev data r = writeForm dev' data' r' ↔ dev = dev' ∧ data = data' ∧ r = r' := by
  refine ⟨fun h => ?_, fun ⟨hd, hb, hr⟩ => by rw [hd, hb, hr]⟩
  obtain rfl : r = r' := by simpa using congrArg Instr.reg h
  cases r <;> cases h <;> exact ⟨rfl, rfl, rfl⟩

theorem readForm_inj {dev dev' : DevAddr} {n n' : Nat} {r r' : Reg} :
    readForm dev n r = readForm dev' n' r' ↔ dev = dev' ∧ n = n' ∧ r = r' := by
  refine ⟨fun h => ?_, fun ⟨hd, hn, hr⟩ => by rw [hd, hn, hr]⟩
  obtain rfl : r = r' := by simpa using congrArg Instr.reg h
  cases r <;> cases h <;> exact ⟨rfl, rfl, rfl⟩

/-- The R bit of their headers tells the two forms apart (R54). -/
theorem writeForm_ne_readForm {dev dev' : DevAddr} {data : List Byte} {n : Nat} {r r' : Reg} :
    writeForm dev data r ≠ readForm dev' n r' := fun h => by
  have hbit := congrArg (fun i => headerIsRead (encode i).header) h
  simp only [header_encode_writeForm, header_encode_readForm, headerIsRead_headerOf] at hbit
  cases hbit

/-- A device address of the expander family, `0b0100aaa` (R54). -/
def OfFamily (dev : DevAddr) : Prop := dev.extractLsb 6 3 = 0b0100#4

theorem wellFormed_iff (i : Instr) : i.WellFormed = true ↔ OfFamily i.dev := beq_iff_eq

/-- A frame whose header names a device outside the family (R58). -/
theorem decode_foreign {h : Header} (hd : ¬ OfFamily (headerDev h)) (data : List Byte) (n : Nat) :
    decode ⟨headerBytes h ++ data, n⟩ = .error (.foreignDevice (headerDev h)) := by
  simp only [headerBytes, List.cons_append, List.nil_append, decode, joinHeader_bytes]
  exact if_neg hd

/-- A frame of the family whose register address is reserved (R59). -/
theorem decode_reserved {h : Header} (hd : OfFamily (headerDev h)) (hr : Reg.ofAddr (headerReg h) = none)
    (data : List Byte) (n : Nat) :
    decode ⟨headerBytes h ++ data, n⟩ = .error (.reservedRegister (headerDev h) (headerReg h)) := by
  simp only [headerBytes, List.cons_append, List.nil_append, decode, joinHeader_bytes, hr]
  exact if_pos hd

/-- A frame of the family, of an implemented register, whose R bit is 0 (R54). -/
theorem decode_write {h : Header} {r : Reg} (hd : OfFamily (headerDev h)) (hr : Reg.ofAddr (headerReg h) = some r)
    (hw : headerIsRead h = false) (data : List Byte) (n : Nat) :
    decode ⟨headerBytes h ++ data, n⟩ =
      if n = 0 then .ok (writeForm (headerDev h) data r) else .error (.writeWithCount (headerDev h)) := by
  simp only [headerBytes, List.cons_append, List.nil_append, decode, joinHeader_bytes, hr, hw]
  refine (if_pos hd).trans ?_
  cases n <;> rfl

/-- A frame of the family, of an implemented register, whose R bit is 1 (R54). -/
theorem decode_read {h : Header} {r : Reg} (hd : OfFamily (headerDev h)) (hr : Reg.ofAddr (headerReg h) = some r)
    (hw : headerIsRead h = true) (data : List Byte) (n : Nat) :
    decode ⟨headerBytes h ++ data, n⟩ =
      if data = [] then .ok (readForm (headerDev h) n r) else .error (.readWithData (headerDev h)) := by
  simp only [headerBytes, List.cons_append, List.nil_append, decode, joinHeader_bytes, hr, hw]
  refine (if_pos hd).trans ?_
  cases data <;> rfl

/-- The header of a row: the family, the R bit and the register's address (R54, R57). -/
def IsRow (h : Header) (rd : Bool) (r : Reg) : Prop :=
  OfFamily (headerDev h) ∧ headerIsRead h = rd ∧ headerReg h = r.addr

theorem isRow_headerOf (dev : DevAddr) (rd : Bool) (r : Reg) (hd : OfFamily dev) :
    IsRow (headerOf dev rd r.addr) rd r := by
  simp [IsRow, hd]

/-- Which instructions a frame decodes to, field by field. -/
theorem decode_eq_ok_iff (h : Header) (data : List Byte) (n : Nat) (i : Instr) :
    decode ⟨headerBytes h ++ data, n⟩ = .ok i ↔ ∃ r,
      (IsRow h false r ∧ n = 0 ∧ i = writeForm (headerDev h) data r) ∨
      (IsRow h true r ∧ data = [] ∧ i = readForm (headerDev h) n r) := by
  by_cases hd : OfFamily (headerDev h)
  · cases hr : Reg.ofAddr (headerReg h) with
    | none =>
      have hne : ∀ r : Reg, headerReg h ≠ r.addr := fun r e => by simp [e] at hr
      simp [decode_reserved hd hr, IsRow, hne]
    | some r =>
      have ha : ∀ q : Reg, headerReg h = q.addr ↔ r = q := fun q => by
        rw [addr_of_ofAddr hr]; exact ⟨addr_injective, congrArg _⟩
      cases hw : headerIsRead h with
      | false =>
        rw [decode_write hd hr hw]
        by_cases hn : n = 0 <;> simp [hn, IsRow, hd, hw, ha, eq_comm]
      | true =>
        rw [decode_read hd hr hw]
        by_cases hn : data = [] <;> simp [hn, IsRow, hd, hw, ha, eq_comm]
  · simp [decode_foreign hd, IsRow, hd]

theorem decode_eq_writeForm_iff (h : Header) (data : List Byte) (n : Nat) (dev : DevAddr) (ds : List Byte)
    (r : Reg) : decode ⟨headerBytes h ++ data, n⟩ = .ok (writeForm dev ds r) ↔
      IsRow h false r ∧ dev = headerDev h ∧ ds = data ∧ n = 0 := by
  rw [decode_eq_ok_iff]
  simp only [writeForm_inj, writeForm_ne_readForm, and_false, or_false]
  constructor
  · rintro ⟨q, hrow, hn, hdev, hds, rfl⟩; exact ⟨hrow, hdev, hds, hn⟩
  · rintro ⟨hrow, hdev, hds, hn⟩; exact ⟨r, hrow, hn, hdev, hds, rfl⟩

theorem decode_eq_readForm_iff (h : Header) (data : List Byte) (n : Nat) (dev : DevAddr) (k : Nat)
    (r : Reg) : decode ⟨headerBytes h ++ data, n⟩ = .ok (readForm dev k r) ↔
      IsRow h true r ∧ dev = headerDev h ∧ k = n ∧ data = [] := by
  rw [decode_eq_ok_iff]
  simp only [readForm_inj, writeForm_ne_readForm.symm, and_false, false_or]
  constructor
  · rintro ⟨q, hrow, hn, hdev, hds, rfl⟩; exact ⟨hrow, hdev, hds, hn⟩
  · rintro ⟨hrow, hdev, hds, hn⟩; exact ⟨r, hrow, hn, hdev, hds, rfl⟩

/-- The mask 0xF1FF keeps the R bit. -/
theorem headerIsRead_masked (h : Header) : headerIsRead (h &&& 0xF1FF) = headerIsRead h := by
  simp [headerIsRead]

/-- The mask keeps the register address. -/
theorem headerReg_masked (h : Header) : headerReg (h &&& 0xF1FF) = headerReg h :=
  (BitVec.extractLsb_and ..).trans (BitVec.and_allOnes (x := headerReg h))

/-- The mask keeps the family. -/
theorem ofFamily_masked (h : Header) : OfFamily (headerDev (h &&& 0xF1FF)) ↔ OfFamily (headerDev h) := by
  have e : (headerDev (h &&& 0xF1FF)).extractLsb 6 3 = (headerDev h).extractLsb 6 3 := by
    refine BitVec.eq_of_getLsbD_eq fun i hi => ?_
    interval_cases i <;> simp [headerDev]
  rw [OfFamily, OfFamily, e]

/-- The row's match of the opcode map (R57), as the fields of the header. -/
theorem masked_eq_iff (h : Header) (rd : Bool) (r : Reg) :
    h &&& 0xF1FF = 0x4000 ||| (if rd then 0x0100 else 0x0000) ||| r.addr.setWidth 16 ↔ IsRow h rd r := by
  constructor
  · intro e
    have hf := ofFamily_masked h
    rw [IsRow, ← hf, ← headerIsRead_masked, ← headerReg_masked, e]
    unfold OfFamily
    cases rd <;> cases r <;> decide
  · rintro ⟨hd, hw, hr⟩
    have hh : headerOf (headerDev h) rd r.addr = h := by rw [← hw, ← hr, headerOf_fields]
    have := Laws.TableRow.header_matches (headerDev h) rd r (beq_iff_eq.mpr hd)
    rwa [hh] at this

/-- Settles O1: the decoder run on the fourteen headers. -/
theorem opcodeMapHeadersDecode : Obligations.OpcodeMapHeadersDecode := by
  unfold Obligations.OpcodeMapHeadersDecode
  decide

/-- Settles O2: the fields that make a row, read under the mask. -/
theorem decoderIsTheOpcodeMap : Obligations.DecoderIsTheOpcodeMap := by
  intro h data n r dev
  have hw : h &&& 0xF1FF = 0x4000 ||| r.addr.setWidth 16 ↔ IsRow h false r := by
    rw [← masked_eq_iff]; simp
  have hr : h &&& 0xF1FF = 0x4100 ||| r.addr.setWidth 16 ↔ IsRow h true r := by
    rw [← masked_eq_iff]; rfl
  constructor
  · intro ds; rw [decode_eq_writeForm_iff, hw]; rfl
  · intro k; rw [decode_eq_readForm_iff, hr]; rfl

/-- Settles O3: the header of an instruction of the family is its form's row. -/
theorem decodeEncode : Obligations.DecodeEncode := by
  intro i hi
  rw [wellFormed_iff] at hi
  rcases instr_eq_form i with ⟨data, e⟩ | ⟨n, e⟩
  · rw [e, encode_writeForm]
    exact (decode_eq_writeForm_iff ..).mpr ⟨isRow_headerOf _ _ _ hi, (headerDev_headerOf ..).symm, rfl, rfl⟩
  · rw [e, encode_readForm]
    exact (decode_eq_readForm_iff _ [] ..).mpr ⟨isRow_headerOf _ _ _ hi, (headerDev_headerOf ..).symm, rfl, rfl⟩

/-- A frame that decodes starts with a header. -/
theorem frame_eq_of_decode_ok {f : Frame} {i : Instr} (e : decode f = .ok i) :
    ∃ h data n, f = ⟨headerBytes h ++ data, n⟩ := by
  obtain ⟨bytes, n⟩ := f
  match bytes with
  | hi :: lo :: data => exact ⟨joinHeader hi lo, data, n, by rw [headerBytes_joinHeader]; rfl⟩
  | [_] | [] => cases e

/-- Settles O4: the header is made up of the fields that decided the form. -/
theorem encodeDecode : Obligations.EncodeDecode := by
  intro f i e
  obtain ⟨h, data, n, rfl⟩ := frame_eq_of_decode_ok e
  obtain ⟨r, ⟨⟨hd, hw, hr⟩, rfl, rfl⟩ | ⟨⟨hd, hw, hr⟩, rfl, rfl⟩⟩ := (decode_eq_ok_iff ..).mp e
  · rw [encode_writeForm, wellFormed_iff, dev_writeForm]
    exact ⟨by rw [Frame.write, ← hw, ← hr, headerOf_fields], hd⟩
  · rw [encode_readForm, wellFormed_iff, dev_readForm]
    exact ⟨by rw [Frame.read, ← hw, ← hr, headerOf_fields, List.append_nil], hd⟩

end Sys2Proof.Machine
end

section
/-! What every step keeps: the parameters, the register invariant and the latched levels. -/

namespace Sys2Proof.Machine

/-- The end of an access is an evaluation but for the pointer. -/
theorem finishAccess_eq (r : Reg) (s : State) :
    finishAccess r s = (evaluate s).setPtr (nextReg s r) := by
  simp only [finishAccess, nextReg_evaluate]

@[simp] theorem memWrite_cfg (r : Reg) (b : Byte) (s : State) : (memWrite r b s).cfg = s.cfg := by
  rw [memWrite_eq_setChip]; rfl

@[simp] theorem memRead_cfg (r : Reg) (s : State) : (memRead r s).2.cfg = s.cfg := by
  cases r <;> simp only [memRead_eq, State.tick_cfg, State.setChip_cfg]
  split <;> rfl

@[simp] theorem memRead_iocon (r : Reg) (s : State) : (memRead r s).2.chip.iocon = s.chip.iocon := by
  cases r <;> simp only [memRead_eq, State.tick_chip, State.setChip_chip]
  split <;> rfl

/-- No turn changes the parameters. -/
theorem keptByTurns_cfg (c : Params) : KeptByTurns fun s => s.cfg = c where
  write r b s h := by simpa [finishAccess_eq] using h
  read r s h := by simpa [finishAccess_eq] using h
  env _ _ h := h
  ptr _ _ h := h
  reply _ _ h := h
  bus _ h := h
  reset _ h := h
  drivers _ _ h := h
  schedule _ _ h := h

/-- Settles O37: no turn changes the parameters. -/
theorem parametersFixed : Obligations.ParametersFixed :=
  fun s _ h => (keptByTurns_cfg s.cfg).step rfl h

/-- IOCON holds implemented bits only: the half of `RegInv` that speaks of IOCON. -/
def IoconMasked (s : State) : Prop := s.chip.iocon &&& ~~~ s.cfg.implMask = 0x00

/-- A write of IOCON stores implemented bits (40_register_access.md R78); no other write reaches it. -/
theorem memWrite_ioconMasked {r : Reg} {b : Byte} {s : State} (h : IoconMasked s) :
    IoconMasked (memWrite r b s) := by
  rw [memWrite_eq_setChip]
  cases r <;> try exact h
  case iocon =>
    refine byte_ext fun p => ?_
    simp [chipAfterWrite]

/-- An access ends with the pointer at an implemented address and IOCON untouched. -/
theorem finishAccess_regInv {r : Reg} {s : State} (h : IoconMasked s) : RegInv (finishAccess r s) := by
  rw [finishAccess_eq]
  exact ⟨by simpa [IoconMasked] using h, addr_le _⟩

theorem evaluate_regInv {s : State} (h : RegInv s) : RegInv (evaluate s) :=
  ⟨by simpa using h.1, by rw [evaluate_chip]; exact h.2⟩

/-- Every turn keeps IOCON within the implemented bits and the pointer at an implemented address. -/
theorem keptByTurns_regInv : KeptByTurns RegInv where
  write _ _ _ h := finishAccess_regInv (memWrite_ioconMasked h.1)
  read _ _ h := finishAccess_regInv (by simpa [IoconMasked] using h.1)
  env _ _ h := evaluate_regInv h
  ptr r _ h := ⟨h.1, addr_le r⟩
  reply _ _ h := h
  bus _ h := h
  reset _ _ := ⟨BitVec.zero_and .., addr_le .iodir⟩
  drivers _ _ h := h
  schedule _ _ h := h

/-- Settles O35: every turn keeps the invariant. -/
theorem stepKeepsRegisterInvariant : Obligations.StepKeepsRegisterInvariant :=
  fun _ _ h e => keptByTurns_regInv.step h e

/-- INTF is 0x00 after an evaluation only where it was and no condition stands (42_interrupt_comparator.md
R104). -/
theorem evaluate_intf_eq_zero {s : State} (h : (evaluate s).chip.intf = 0x00) :
    cond s.chip (cmpInput s) = 0x00 := by
  rw [evaluate_chip, latchStep_intf] at h
  split at h
  · exact h
  · next hn =>
    split at h
    · exact absurd (BitVec.or_eq_zero_iff.mp h).1 hn
    · exact absurd h hn

/-- One evaluation latches every level condition that stands, whatever stood before (R104, R109). -/
theorem evaluate_levelsLatched (s : State) : LevelsLatched (evaluate s) := by
  intro hz p hen hcon
  have hcond := (byte_eq_zero_iff _).mp (evaluate_intf_eq_zero hz) p
  rw [evaluate_chip] at hen hcon ⊢
  simpa [condBit, hen, hcon] using hcond

/-- Every turn leaves the level conditions latched: each access ends with an evaluation, and a reset enables no
pin. -/
theorem keptByTurns_levelsLatched : KeptByTurns LevelsLatched where
  write _ _ _ _ := evaluate_levelsLatched _
  read _ _ _ := evaluate_levelsLatched _
  env _ _ _ := evaluate_levelsLatched _
  ptr _ _ h := h
  reply _ _ h := h
  bus _ h := h
  reset _ _ _ p hen := absurd (hen.symm.trans (bitOf_zero p)) (by decide)
  drivers _ _ h := h
  schedule _ _ h := h

/-- Settles O34: every turn leaves the level conditions latched. -/
theorem stepKeepsLevelsLatched : Obligations.StepKeepsLevelsLatched :=
  fun _ _ h e => keptByTurns_levelsLatched.step h e

/-- Settles O36: no pin is enabled after reset, IOCON is 0x00 and the pointer at 0x00. -/
theorem resetInvariants : Obligations.ResetInvariants :=
  ⟨fun _ p hen => absurd (hen.symm.trans (bitOf_zero p)) (by decide), by unfold RegInv; decide⟩

end Sys2Proof.Machine
end

section
/-! Pins, the comparator and the turns of the schedule. -/

namespace Sys2Proof.Machine

/-- A driven input is at its drive (10_state.md R31). -/
theorem pinLevel_input_driven {s : State} {p : Pin} (hi : bitOf s.chip.iodir p = true)
    (hd : s.ext[p] ≠ .undriven) : pinLevel s p = decide (s.ext[p] = .high) := by
  cases he : s.ext[p] with
  | undriven => exact absurd he hd
  | low | high => simp [pinLevel, hi, he]

/-- Settles O27: R31's rows, and the read value of R32. -/
theorem pinLevelTable : Obligations.PinLevelTable := by
  intro s p
  refine ⟨fun hi he => ?_, fun hi he => ?_, fun hi hz hg => ?_, fun hi hz hg => ?_,
    pinLevel_output_undriven, pinLevel_output_driven, bitOf_sample s p⟩
  · simp [pinLevel_input_driven hi, he]
  · simp [pinLevel_input_driven hi, he]
  · simp [pinLevel_input_floating hi hz, hg]
  · simp [pinLevel_input_floating hi hz, hg, drawBit]

/-- Settles O28: each lane is R103's condition. -/
theorem conditionsAreOneByteFormula : Obligations.ConditionsAreOneByteFormula := cond_eq_flagsOf

/-- Settles O29: the latch rule as formulas on bytes. -/
theorem evaluationLatchesFirstEvent : Obligations.EvaluationLatchesFirstEvent := evaluate_eq

/-- A step takes the first turn off the schedule. -/
theorem step_cons {s : State} {u : Turn} {ts : List Turn} (h : s.schedule = u :: ts) :
    step s = takeTurn u (s.setSchedule ts) := by
  simp only [step, nextTurn, h]

/-- Settles O30: an environment step is an evaluation under the new drive. -/
theorem environmentStepEvaluates : Obligations.EnvironmentStepEvaluates := by
  intro s e ts h
  rw [step_cons h, takeTurn, envStep, evaluate_eq]
  rfl

/-- Settles O32: a pin compared against PREV is flagged because its input differs from PREV, and that input is
what INTCAP takes. -/
theorem changeLatchCapturesNewValue : Obligations.ChangeLatchCapturesNewValue := by
  intro s p hz hcon hflag
  have hintf : (evaluate s).chip.intf = cond s.chip (cmpInput s) := by
    rw [evaluate_chip, latchStep_intf]; exact if_pos hz
  rw [hintf] at hflag
  have hne : cond s.chip (cmpInput s) ≠ 0x00 := fun h0 => by simp [h0] at hflag
  have hcap : (evaluate s).chip.intcap = cmpInput s := by
    rw [evaluate_chip, latchStep_intcap]; exact if_pos ⟨hz, hne⟩
  rw [hcap]
  have hdiff : bitOf s.chip.gpinten p = true ∧ ¬ bitOf (cmpInput s) p = bitOf s.chip.prev p := by
    simpa [condBit, hcon] using hflag
  exact Bool.eq_not_of_ne hdiff.2

/-- Settles O33: the three branches of R108, with a flag and without. -/
theorem interruptOutputTable : Obligations.InterruptOutputTable := by
  intro s
  have hact : s.chip.intf ≠ 0x00 → (s.chip.intf != 0x00) = true := bne_iff_ne.mpr
  have hidle : s.chip.intf = 0x00 → (s.chip.intf != 0x00) = false := fun h => by rw [h]; rfl
  refine ⟨fun hodr => ⟨fun hf => ?_, fun hf => ?_⟩, fun hodr hpol => ⟨fun hf => ?_, fun hf => ?_⟩,
    fun hodr hpol => ⟨fun hf => ?_, fun hf => ?_⟩⟩
  · simp only [intPin, hodr, hact hf, if_true]
  · simp only [intPin, hodr, hidle hf, if_true]; rfl
  · simp only [intPin, hodr, hpol, hact hf, if_true]; rfl
  · simp only [intPin, hodr, hpol, hidle hf, if_true]; rfl
  · simp only [intPin, hodr, hpol, hact hf, if_true]; rfl
  · simp only [intPin, hodr, hpol, hidle hf]; rfl

/-- Settles O38: the state after reset is written out; its comparator input is that of eight pins driven low. -/
theorem resetRegisterValues : Obligations.ResetRegisterValues := ⟨rfl, by decide⟩

/-- With the reset registers every pin is an input without pull-up and without polarity, so the comparator
input is the drive, or a draw where nothing drives (70_reset_and_hazards.md R137). -/
theorem bitOf_cmpInput_powerOn (s : State) (p : Pin) :
    bitOf (cmpInput (s.setChip .powerOn)) p =
      match s.ext[p] with
      | .high => true
      | .low => false
      | .undriven => bitOf (Config.drawByte s.draws) p := by
  have hin : bitOf Chip.powerOn.iodir p = true := by revert p; decide
  have hipol : bitOf Chip.powerOn.ipol p = false := bitOf_zero p
  have hgppu : bitOf Chip.powerOn.gppu p = false := bitOf_zero p
  have hbit : bitOf (cmpInput (s.setChip .powerOn)) p = pinLevel (s.setChip .powerOn) p := by
    unfold cmpInput
    split
    · rw [bitOf_sample, State.setChip_chip, hipol, Bool.xor_false]
    · exact bitOf_levels _ p
  rw [hbit]
  cases he : s.ext[p] <;> simp [pinLevel, hin, hgppu, he, drawBit]

/-- Settles O39: the reset registers, and PREV by the comparator input with them. -/
theorem chipResetTurn : Obligations.ChipResetTurn := by
  intro s ts h
  refine ⟨cmpInput ((s.setSchedule ts).setChip .powerOn), ?_, bitOf_cmpInput_powerOn (s.setSchedule ts)⟩
  rw [step_cons h]
  rfl

/-- Settles O40: a directly issued frame that decodes is its instruction; with nothing scheduled the machine
waits. -/
theorem stepRunsDecodedInstruction : Obligations.StepRunsDecodedInstruction := by
  constructor
  · intro s f ts i h hdec
    simp only [step_cons h, takeTurn, transact, hdec]
    rfl
  · intro s h
    simp only [step, nextTurn, h]

/-- Settles O42: the driver made anew has the slots of a new driver. -/
theorem hostRestartLosesShadow : Obligations.HostRestartLosesShadow := by
  intro s d drv ts h hd
  refine ⟨⟨.fresh, drv.contexts.map fun ctx => { ctx with running := none }⟩, ?_,
    fun p => Vector.getElem_replicate p.isLt⟩
  simp only [step_cons h, takeTurn, hostRestart, State.setSchedule_drivers, hd]
  rfl

end Sys2Proof.Machine
end

section
/-! The accesses of a transaction neither see nor change the host drivers, the replies, the schedule and the bus
inputs (20_memory.md §1). -/

namespace Sys2Proof.Machine

/-- `s` with other host drivers, replies, turns and bus inputs. -/
def State.withHosts (s : State) (ds : List Driver) (rs : List Reply) (ts : List Turn) (be : List BusCond) :
    State :=
  { s with drivers := ds, replies := rs, schedule := ts, busEnv := be }

section
variable (ds : List Driver) (rs : List Reply) (ts : List Turn) (be : List BusCond)

@[simp] theorem memWrite_withHosts (r : Reg) (b : Byte) (s : State) :
    memWrite r b (s.withHosts ds rs ts be) = (memWrite r b s).withHosts ds rs ts be := by
  cases r <;> rfl

@[simp] theorem memRead_withHosts_fst (r : Reg) (s : State) :
    (memRead r (s.withHosts ds rs ts be)).1 = (memRead r s).1 := by
  cases r <;> rfl

@[simp] theorem memRead_withHosts_snd (r : Reg) (s : State) :
    (memRead r (s.withHosts ds rs ts be)).2 = (memRead r s).2.withHosts ds rs ts be := by
  cases r <;> try rfl
  case gpio =>
    cases h : s.cfg.gpioReadClears <;> simp [memRead_eq, State.withHosts, h] <;> rfl

@[simp] theorem finishAccess_withHosts (r : Reg) (s : State) :
    finishAccess r (s.withHosts ds rs ts be) = (finishAccess r s).withHosts ds rs ts be := rfl

@[simp] theorem nextReg_withHosts (r : Reg) (s : State) :
    nextReg (s.withHosts ds rs ts be) r = nextReg s r := rfl

@[simp] theorem devAddr_withHosts (s : State) : devAddr (s.withHosts ds rs ts be) = devAddr s := rfl

@[simp] theorem envSteps_withHosts (es : List Ext) (s : State) :
    envSteps (s.withHosts ds rs ts be) es = (envSteps s es).withHosts ds rs ts be := by
  induction es generalizing s with
  | nil => rfl
  | cons e es ih => exact ih (envStep s e)

@[simp] theorem writeLoop_withHosts (r : Reg) (data : List Byte) (gaps : List (List Ext)) (s : State) :
    writeLoop r data gaps (s.withHosts ds rs ts be) = (writeLoop r data gaps s).withHosts ds rs ts be := by
  induction data generalizing r gaps s with
  | nil => rfl
  | cons b bs ih => simp [writeLoop, ih]

@[simp] theorem readLoop_withHosts_fst (r : Reg) (n : Nat) (gaps : List (List Ext)) (s : State) :
    (readLoop r n gaps (s.withHosts ds rs ts be)).1 = (readLoop r n gaps s).1 := by
  induction n generalizing r gaps s with
  | zero => rfl
  | succ n ih => simp [readLoop, ih]

@[simp] theorem readLoop_withHosts_snd (r : Reg) (n : Nat) (gaps : List (List Ext)) (s : State) :
    (readLoop r n gaps (s.withHosts ds rs ts be)).2 = (readLoop r n gaps s).2.withHosts ds rs ts be := by
  induction n generalizing r gaps s with
  | zero => rfl
  | succ n ih => simp [readLoop, ih]

end

/-- The host's part of `t` is that of `s`. -/
structure SameHosts (s t : State) : Prop where
  drivers : t.drivers = s.drivers
  replies : t.replies = s.replies
  schedule : t.schedule = s.schedule
  busEnv : t.busEnv = s.busEnv

theorem sameHosts_of_eq {s t : State} (h : t = t.withHosts s.drivers s.replies s.schedule s.busEnv) :
    SameHosts s t :=
  ⟨(congrArg State.drivers h).trans rfl, (congrArg State.replies h).trans rfl,
   (congrArg State.schedule h).trans rfl, (congrArg State.busEnv h).trans rfl⟩

theorem envSteps_sameHosts (es : List Ext) (s : State) : SameHosts s (envSteps s es) :=
  sameHosts_of_eq (envSteps_withHosts _ _ _ _ es s)

theorem writeLoop_sameHosts (r : Reg) (data : List Byte) (gaps : List (List Ext)) (s : State) :
    SameHosts s (writeLoop r data gaps s) :=
  sameHosts_of_eq (writeLoop_withHosts _ _ _ _ r data gaps s)

theorem readLoop_sameHosts (r : Reg) (n : Nat) (gaps : List (List Ext)) (s : State) :
    SameHosts s (readLoop r n gaps s).2 :=
  sameHosts_of_eq (readLoop_withHosts_snd _ _ _ _ r n gaps s)

@[simp] theorem envSteps_cfg (es : List Ext) (s : State) : (envSteps s es).cfg = s.cfg :=
  (keptByTurns_cfg s.cfg).envSteps es s rfl

@[simp] theorem writeLoop_cfg (r : Reg) (data : List Byte) (gaps : List (List Ext)) (s : State) :
    (writeLoop r data gaps s).cfg = s.cfg :=
  (keptByTurns_cfg s.cfg).writeLoop data r gaps s rfl

@[simp] theorem readLoop_cfg (r : Reg) (n : Nat) (gaps : List (List Ext)) (s : State) :
    (readLoop r n gaps s).2.cfg = s.cfg :=
  (keptByTurns_cfg s.cfg).readLoop n r gaps s rfl

/-- Environment steps leave the pointer (42_interrupt_comparator.md R107). -/
@[simp] theorem envSteps_ptr (es : List Ext) (s : State) : (envSteps s es).chip.ptr = s.chip.ptr := by
  induction es generalizing s with
  | nil => rfl
  | cons e es ih => exact (ih (envStep s e)).trans (by rw [envStep, evaluate_chip]; rfl)

/-- Setting the pointer where it stands changes nothing. -/
theorem setPtr_self {s : State} {r : Reg} (h : s.chip.ptr = r.addr) : s.setPtr r = s := by
  rw [State.setPtr, ← h]; rfl

/-- The pointer after an access. -/
theorem finishAccess_ptr (r : Reg) (s : State) :
    (finishAccess r s).chip.ptr = (nextReg (finishAccess r s) r).addr := rfl

end Sys2Proof.Machine
end

section
/-! A transaction addressed to the chip, by what the bus does to it: it succeeds, or a failure performs the first
of its accesses (40_register_access.md R64, R65, R67). -/

namespace Sys2Proof.Machine

theorem writeTransaction_foreign {dev : DevAddr} {s : State} (h : dev ≠ devAddr s) (r : Reg)
    (data : List Byte) : writeTransaction dev r data s = .next (s.pushReply .busError) := if_neg h

theorem readTransaction_foreign {dev : DevAddr} {s : State} (h : dev ≠ devAddr s) (r : Reg) (n : Nat) :
    readTransaction dev r n s = .next (s.pushReply .busError) := if_neg h

/-- A write that the bus lets through. -/
theorem writeTransaction_completes {s : State} {gaps : List (List Ext)} (h : s.busCond = ⟨none, gaps⟩)
    (r : Reg) (data : List Byte) : writeTransaction (devAddr s) r data s =
      .next ((writeLoop r data gaps (s.takeBusCond.setPtr r)).pushReply .ok) := by
  simp only [writeTransaction, if_true, h]

/-- A read that the bus lets through. -/
theorem readTransaction_completes {s : State} {gaps : List (List Ext)} (h : s.busCond = ⟨none, gaps⟩)
    (r : Reg) (n : Nat) : readTransaction (devAddr s) r n s =
      .next ((readLoop r n gaps (s.takeBusCond.setPtr r)).2.pushReply
        (.bytes (readLoop r n gaps (s.takeBusCond.setPtr r)).1)) := by
  simp only [readTransaction, if_true, h]

/-- A write that fails. -/
theorem writeTransaction_fails {s : State} {f : BusFailure} {gaps : List (List Ext)}
    (h : s.busCond = ⟨some f, gaps⟩) (r : Reg) (data : List Byte) : writeTransaction (devAddr s) r data s =
      .next ((writeLoop r (data.take f.after) gaps
        (failedStart r f (min f.after data.length) s.takeBusCond)).pushReply .busError) := by
  have htake : data.take (min f.after data.length) = data.take f.after := by
    rw [List.take_eq_take_iff, min_assoc, min_self]
  simp only [writeTransaction, if_true, h, htake]

/-- A read that fails. -/
theorem readTransaction_fails {s : State} {f : BusFailure} {gaps : List (List Ext)}
    (h : s.busCond = ⟨some f, gaps⟩) (r : Reg) (n : Nat) : readTransaction (devAddr s) r n s =
      .next ((readLoop r (min f.after n) gaps
        (failedStart r f (min f.after n) s.takeBusCond)).2.pushReply .busError) := by
  simp only [readTransaction, if_true, h]

/-- A failed transaction that performs an access, or whose pointer was set, starts as every transaction does. -/
theorem failedStart_set {f : BusFailure} {k : Nat} (h : f.ptrSet = true ∨ 0 < k) (r : Reg) (s : State) :
    failedStart r f k s = s.setPtr r := by
  refine if_neg fun ⟨hk, hp⟩ => ?_
  rcases h with h | h
  · simp [hp] at h
  · omega

/-- A failed transaction that performs no access and did not set the pointer leaves it. -/
theorem failedStart_unset {f : BusFailure} (h : f.ptrSet = false) (r : Reg) (s : State) :
    failedStart r f 0 s = s := if_pos ⟨rfl, h⟩

/-- Whatever the bus does to a write addressed to the chip, it performs its first accesses, from the pointer set
or not, and one reply is delivered. -/
theorem writeTransaction_addressed (s : State) (r : Reg) (data : List Byte) : ∃ s0 rep,
    (s0 = s.takeBusCond ∨ s0 = s.takeBusCond.setPtr r) ∧ writeTransaction (devAddr s) r data s =
      .next ((writeLoop r (data.take (accessesMade s data.length)) s.busCond.gaps s0).pushReply rep) := by
  rcases hc : s.busCond with ⟨_ | f, gaps⟩
  · refine ⟨_, .ok, .inr rfl, ?_⟩
    simp only [writeTransaction_completes hc, accessesMade, hc, List.take_length]
  · refine ⟨failedStart r f (min f.after data.length) s.takeBusCond, .busError, ?_, ?_⟩
    · exact ite_eq_or_eq ..
    · simp only [writeTransaction, if_true, hc, accessesMade]

/-- Whatever the bus does to a read addressed to the chip, it performs its first accesses, from the pointer set
or not, and one reply is delivered. -/
theorem readTransaction_addressed (s : State) (r : Reg) (n : Nat) : ∃ s0 rep,
    (s0 = s.takeBusCond ∨ s0 = s.takeBusCond.setPtr r) ∧ readTransaction (devAddr s) r n s =
      .next ((readLoop r (accessesMade s n) s.busCond.gaps s0).2.pushReply rep) := by
  rcases hc : s.busCond with ⟨_ | f, gaps⟩
  · refine ⟨s.takeBusCond.setPtr r, .bytes (readLoop r n gaps (s.takeBusCond.setPtr r)).1, .inr rfl, ?_⟩
    simp only [readTransaction_completes hc, accessesMade, hc]
  · refine ⟨failedStart r f (min f.after n) s.takeBusCond, .busError, ?_, ?_⟩
    · exact ite_eq_or_eq ..
    · simp only [readTransaction_fails hc, accessesMade, hc]

end Sys2Proof.Machine
end

section
/-! One write or read of one byte on a quiet bus, as a state: what host operations are made of. -/

namespace Sys2Proof.Machine

/-- The chip after a read access at a register (40_register_access.md R69 to R89). -/
def chipAfterRead (r : Reg) (cfg : Params) (c : Chip) : Chip :=
  match r with
  | .intcap => { c with intf := 0x00 }
  | .gpio => { c with intf := if cfg.gpioReadClears then 0x00 else c.intf }
  | .iodir | .ipol | .gpinten | .defval | .intcon | .iocon | .gppu | .intf | .olat => c

/-- The samples taken after a read access: GPIO samples the pins (R87). -/
def drawsAfterRead (r : Reg) (n : Nat) : Nat := if r = .gpio then n + 1 else n

/-- A read access is its change of the chip and of the sample count. -/
theorem memRead_snd_eq (r : Reg) (s : State) : (memRead r s).2 =
    { s with chip := chipAfterRead r s.cfg s.chip, draws := drawsAfterRead r s.draws } := by
  cases r <;> try rfl
  case gpio =>
    cases h : s.cfg.gpioReadClears <;> simp [memRead_eq, chipAfterRead, h] <;> rfl

/-- A read access neither reads nor moves the pointer. -/
theorem chipAfterRead_ptr (r : Reg) (cfg : Params) (ptr : Byte) (c : Chip) :
    chipAfterRead r cfg { c with ptr := ptr } = { chipAfterRead r cfg c with ptr := ptr } := by
  cases r <;> rfl

/-- The byte a read access returns depends on neither the pointer nor the bus inputs. -/
theorem memRead_fst_start (r q : Reg) (s : State) :
    (memRead r (s.takeBusCond.setPtr q)).1 = (memRead r s).1 := by
  cases r <;> rfl

/-- The state after a write of one byte on a quiet bus. -/
def afterWrite (r : Reg) (b : Byte) (s : State) : State :=
  afterOneByte r .ok (chipAfterWrite r s.cfg b s.chip) s.draws s

/-- The state after a read of one byte on a quiet bus. -/
def afterRead (r : Reg) (s : State) : State :=
  afterOneByte r (.bytes [(memRead r s).1]) (chipAfterRead r s.cfg s.chip) (drawsAfterRead r s.draws) s

theorem writeTransaction_quiet {s : State} (hq : Quiet s) (r : Reg) (b : Byte) :
    writeTransaction (devAddr s) r [b] s = .next (afterWrite r b s) := by
  rw [← exec_writeForm]; exact (writesOneByte_writeForm r s b hq).2

theorem readTransaction_quiet {s : State} (hq : Quiet s) (r : Reg) :
    readTransaction (devAddr s) r 1 s = .next (afterRead r s) := by
  rw [readTransaction_single hq, memRead_snd_eq, memRead_fst_start, State.setPtr_chip, chipAfterRead_ptr]
  exact congrArg _ (finishAccess_pushReply r _ _ r.addr (drawsAfterRead r s.draws) s)

/-- Settles O9: the four write forms are those of plain storage registers. -/
theorem wrIpolGpintenIntconOlatStore : Obligations.WrIpolGpintenIntconOlatStore :=
  ⟨writesOneByte_writeForm .ipol, writesOneByte_writeForm .gpinten, writesOneByte_writeForm .intcon,
   writesOneByte_writeForm .olat⟩

/-- Settles O10: the write form stores the byte under the mask. -/
theorem wrIoconStoresImplementedBits : Obligations.WrIoconStoresImplementedBits :=
  writesOneByte_writeForm .iocon

/-- Settles O11: the two write forms leave the chip. -/
theorem wrIntfIntcapDiscard : Obligations.WrIntfIntcapDiscard :=
  ⟨writesOneByte_writeForm .intf, writesOneByte_writeForm .intcap⟩

/-- A bit outside the mask is 0 in every state of the invariant. -/
theorem bitOf_iocon_unimplemented {s : State} (h : RegInv s) {p : Pin} (hp : bitOf s.cfg.implMask p = false) :
    bitOf s.chip.iocon p = false := by
  have hmask := (byte_eq_zero_iff _).mp h.1 p
  simpa [hp] using hmask

/-- Settles O13: the read form returns the register; the invariant says which of its bits are 0. -/
theorem rdIoconReturnsImplementedBits : Obligations.RdIoconReturnsImplementedBits :=
  ⟨readsStored_readForm (r := .iocon) (fun _ => rfl) (fun _ _ => rfl),
   fun _ h _ hp => bitOf_iocon_unimplemented h hp⟩

/-- Settles O14: the read form leaves INTF to an evaluation that keeps it where flags do not accumulate. -/
theorem rdIntfReturnsFlagsUncleared : Obligations.RdIntfReturnsFlagsUncleared := by
  have hreads : ReadsStored .rdIntf .intf 0x0007 Chip.intf :=
    readsStored_readForm (r := .intf) (fun _ => rfl) (fun _ _ => rfl)
  refine ⟨hreads, fun s t hq e hf hacc => ?_⟩
  rw [(hreads s hq).2] at e
  cases e
  simp only [afterOneByte, chipAfterEvaluation, if_neg hf, hacc, Bool.false_eq_true, if_false]

/-- Settles O15: the read form returns the capture and clears INTF before the evaluation. -/
theorem rdIntcapReturnsCaptureAndClears : Obligations.RdIntcapReturnsCaptureAndClears := fun s hq =>
  ⟨(header_encode_readForm _ _ .intcap).trans (headerOf_devAddr s true .intcap),
   (exec_readForm _ _ .intcap s).trans (readTransaction_quiet hq .intcap)⟩

/-- Settles O16: the read form returns the sample and clears INTF by parameter before the evaluation. -/
theorem rdGpioReturnsPins : Obligations.RdGpioReturnsPins := fun s hq =>
  ⟨(header_encode_readForm _ _ .gpio).trans (headerOf_devAddr s true .gpio), sample s, bitOf_sample s,
   (exec_readForm _ _ .gpio s).trans (readTransaction_quiet hq .gpio)⟩

end Sys2Proof.Machine
end

section
/-! Transactions of any length. -/

namespace Sys2Proof.Machine

/-- Settles O17: with no byte there is no access. -/
theorem zeroLengthSetsPointerOnly : Obligations.ZeroLengthSetsPointerOnly := by
  intro s r hq
  rw [exec_writeForm, exec_readForm, writeTransaction_completes hq, readTransaction_completes hq]
  exact ⟨rfl, rfl⟩

theorem busCond_of_busEnv {s : State} {c : BusCond} {rest : List BusCond} (h : s.busEnv = c :: rest) :
    s.busCond = c := by
  rw [State.busCond, h]; rfl

theorem takeBusCond_of_busEnv {s : State} {c : BusCond} {rest : List BusCond} (h : s.busEnv = c :: rest) :
    s.takeBusCond = { s with busEnv := rest } := by
  rw [State.takeBusCond, h]; rfl

/-- An access leaves the host's part alone. -/
theorem finishAccess_write_sameHosts (r : Reg) (b : Byte) (s : State) :
    SameHosts s (finishAccess r (memWrite r b s)) := writeLoop_sameHosts r [b] [] s

theorem finishAccess_read_sameHosts (r : Reg) (s : State) :
    SameHosts s (finishAccess r (memRead r s).2) := readLoop_sameHosts r 1 [] s

theorem SameHosts.trans {s t u : State} (h : SameHosts s t) (k : SameHosts t u) : SameHosts s u :=
  ⟨k.drivers.trans h.drivers, k.replies.trans h.replies, k.schedule.trans h.schedule, k.busEnv.trans h.busEnv⟩

theorem SameHosts.withHosts {s t : State} (h : SameHosts s t) (rs : List Reply) (be : List BusCond) :
    t.withHosts s.drivers rs s.schedule be = { t with replies := rs, busEnv := be } := by
  rw [State.withHosts, ← h.drivers, ← h.schedule]

/-- A transaction's end where the host's part still is its issuer's. -/
theorem SameHosts.pushReply {s t : State} (h : SameHosts s t) (rep : Reply) :
    t.pushReply rep = { t with replies := rep :: s.replies, busEnv := s.busEnv } := by
  rw [State.pushReply, ← h.replies, ← h.busEnv]

section
variable (rs : List Reply) (be : List BusCond)

theorem envSteps_bus (es : List Ext) (s : State) :
    envSteps { s with replies := rs, busEnv := be } es = { envSteps s es with replies := rs, busEnv := be } :=
  (envSteps_withHosts s.drivers rs s.schedule be es s).trans ((envSteps_sameHosts es s).withHosts rs be)

theorem writeLoop_bus (r : Reg) (data : List Byte) (gaps : List (List Ext)) (s : State) :
    writeLoop r data gaps { s with replies := rs, busEnv := be } =
      { writeLoop r data gaps s with replies := rs, busEnv := be } :=
  (writeLoop_withHosts s.drivers rs s.schedule be r data gaps s).trans
    ((writeLoop_sameHosts r data gaps s).withHosts rs be)

theorem readLoop_bus_fst (r : Reg) (n : Nat) (gaps : List (List Ext)) (s : State) :
    (readLoop r n gaps { s with replies := rs, busEnv := be }).1 = (readLoop r n gaps s).1 :=
  readLoop_withHosts_fst s.drivers rs s.schedule be r n gaps s

theorem readLoop_bus_snd (r : Reg) (n : Nat) (gaps : List (List Ext)) (s : State) :
    (readLoop r n gaps { s with replies := rs, busEnv := be }).2 =
      { (readLoop r n gaps s).2 with replies := rs, busEnv := be } :=
  (readLoop_withHosts_snd s.drivers rs s.schedule be r n gaps s).trans
    ((readLoop_sameHosts r n gaps s).withHosts rs be)

end

/-- The rounds left of a write loop are a transaction of their own from where the pointer stands. -/
theorem writeTransaction_resumed {e : State} {r : Reg} (hptr : e.chip.ptr = r.addr) (rs : List Reply)
    (gaps : List (List Ext)) (rest : List BusCond) (data : List Byte) :
    writeTransaction (devAddr e) r data { e with replies := rs, busEnv := ⟨none, gaps⟩ :: rest } =
      .next { writeLoop r data gaps e with replies := .ok :: rs, busEnv := rest } := by
  have hc := writeTransaction_completes (s := { e with replies := rs, busEnv := ⟨none, gaps⟩ :: rest })
    (gaps := gaps) rfl r data
  have hstart : ({ e with replies := rs, busEnv := rest } : State).setPtr r = _ := setPtr_self hptr
  rw [takeBusCond_of_busEnv rfl, hstart, writeLoop_bus] at hc
  exact hc

/-- The rounds left of a read loop are a transaction of their own from where the pointer stands. -/
theorem readTransaction_resumed {e : State} {r : Reg} (hptr : e.chip.ptr = r.addr) (rs : List Reply)
    (gaps : List (List Ext)) (rest : List BusCond) (n : Nat) :
    readTransaction (devAddr e) r n { e with replies := rs, busEnv := ⟨none, gaps⟩ :: rest } =
      .next { (readLoop r n gaps e).2 with
        replies := .bytes (readLoop r n gaps e).1 :: rs, busEnv := rest } := by
  have hc := readTransaction_completes (s := { e with replies := rs, busEnv := ⟨none, gaps⟩ :: rest })
    (gaps := gaps) rfl r n
  have hstart : ({ e with replies := rs, busEnv := rest } : State).setPtr r = _ := setPtr_self hptr
  rw [takeBusCond_of_busEnv rfl, hstart, readLoop_bus_fst, readLoop_bus_snd] at hc
  exact hc

/-- A write that the bus lets through, with the bus inputs in place. -/
theorem writeTransaction_given (s : State) (gaps : List (List Ext)) (rest : List BusCond) (r : Reg)
    (data : List Byte) : writeTransaction (devAddr s) r data { s with busEnv := ⟨none, gaps⟩ :: rest } =
      .next ((writeLoop r data gaps ({ s with busEnv := rest }.setPtr r)).pushReply .ok) :=
  writeTransaction_completes (s := { s with busEnv := ⟨none, gaps⟩ :: rest }) rfl r data

/-- A read that the bus lets through, with the bus inputs in place. -/
theorem readTransaction_given (s : State) (gaps : List (List Ext)) (rest : List BusCond) (r : Reg) (n : Nat) :
    readTransaction (devAddr s) r n { s with busEnv := ⟨none, gaps⟩ :: rest } =
      .next ((readLoop r n gaps ({ s with busEnv := rest }.setPtr r)).2.pushReply
        (.bytes (readLoop r n gaps ({ s with busEnv := rest }.setPtr r)).1)) :=
  readTransaction_completes (s := { s with busEnv := ⟨none, gaps⟩ :: rest }) rfl r n

theorem devAddr_congr {s t : State} (h : t.cfg = s.cfg) : devAddr t = devAddr s := by
  rw [devAddr, devAddr, h]

theorem setPtr_sameHosts (r : Reg) (s : State) : SameHosts s (s.setPtr r) := ⟨rfl, rfl, rfl, rfl⟩

/-- Settles O18: the loop's first round is the first write, and its next rounds start at the register the pointer
names, blind to the reply delivered in between. -/
theorem longWriteIsChainOfWrites : Obligations.LongWriteIsChainOfWrites := by
  intro s r b bs gaps rest h
  obtain ⟨s0, hs0⟩ : ∃ s0, s0 = { s with busEnv := rest }.setPtr r := ⟨_, rfl⟩
  obtain ⟨s1, hs1⟩ : ∃ s1, s1 = finishAccess r (memWrite r b s0) := ⟨_, rfl⟩
  obtain ⟨e, he⟩ : ∃ e, e = envSteps s1 (gaps.headD []) := ⟨_, rfl⟩
  have hfirst : SameHosts { s with busEnv := rest } s1 :=
    (hs0 ▸ setPtr_sameHosts r _).trans (hs1 ▸ finishAccess_write_sameHosts r b s0)
  have hall : SameHosts { s with busEnv := rest } (writeLoop (nextReg s1 r) bs gaps.tail e) :=
    (hfirst.trans (he ▸ envSteps_sameHosts _ s1)).trans (writeLoop_sameHosts ..)
  have hdev : devAddr e = devAddr s := devAddr_congr (by simp [he, hs1, hs0, finishAccess_eq])
  have hptr : s1.chip.ptr = (nextReg s1 r).addr := hs1 ▸ finishAccess_ptr r _
  simp only [exec_writeForm]
  refine ⟨{ s1 with replies := .ok :: s.replies, busEnv := rest }, nextReg s1 r,
    { writeLoop (nextReg s1 r) bs gaps.tail e with replies := .ok :: .ok :: s.replies, busEnv := rest },
    ?_, hptr, ?_, ?_⟩
  · rw [BusCond.quiet, writeTransaction_given, ← hs0, writeLoop, ← hs1]
    exact congrArg _ (hfirst.pushReply .ok)
  · rw [envSteps_bus, ← he, ← hdev]
    exact writeTransaction_resumed (he ▸ (envSteps_ptr ..).trans hptr) ..
  · rw [writeTransaction_completes (busCond_of_busEnv h), takeBusCond_of_busEnv h, ← hs0, writeLoop, ← hs1, ← he]
    exact congrArg _ (hall.pushReply .ok)

/-- Settles O19: as O18, with the byte of each round kept in front of those of the next. -/
theorem longReadIsChainOfReads : Obligations.LongReadIsChainOfReads := by
  intro s r n gaps rest h
  obtain ⟨s0, hs0⟩ : ∃ s0, s0 = { s with busEnv := rest }.setPtr r := ⟨_, rfl⟩
  obtain ⟨s1, hs1⟩ : ∃ s1, s1 = finishAccess r (memRead r s0).2 := ⟨_, rfl⟩
  obtain ⟨e, he⟩ : ∃ e, e = envSteps s1 (gaps.headD []) := ⟨_, rfl⟩
  obtain ⟨x, hx⟩ : ∃ x, x = (memRead r s0).1 := ⟨_, rfl⟩
  obtain ⟨out, hout⟩ : ∃ out, out = readLoop (nextReg s1 r) n gaps.tail e := ⟨_, rfl⟩
  have hfirst : SameHosts { s with busEnv := rest } s1 :=
    (hs0 ▸ setPtr_sameHosts r _).trans (hs1 ▸ finishAccess_read_sameHosts r s0)
  have hall : SameHosts { s with busEnv := rest } out.2 :=
    (hfirst.trans (he ▸ envSteps_sameHosts _ s1)).trans (hout ▸ readLoop_sameHosts ..)
  have hdev : devAddr e = devAddr s := devAddr_congr (by simp [he, hs1, hs0, finishAccess_eq])
  have hptr : s1.chip.ptr = (nextReg s1 r).addr := hs1 ▸ finishAccess_ptr r _
  simp only [exec_readForm]
  refine ⟨{ s1 with replies := .bytes [x] :: s.replies, busEnv := rest }, nextReg s1 r,
    { out.2 with replies := .bytes out.1 :: .bytes [x] :: s.replies, busEnv := rest },
    x, out.1, _, ?_, hptr, rfl, ?_, rfl, hout ▸ readLoop_length .., ?_⟩
  · rw [BusCond.quiet, readTransaction_given, ← hs0, readLoop, ← hs1, ← hx]
    exact congrArg _ (hfirst.pushReply _)
  · rw [envSteps_bus, ← he, ← hdev, hout]
    exact readTransaction_resumed (he ▸ (envSteps_ptr ..).trans hptr) ..
  · rw [readTransaction_completes (busCond_of_busEnv h), takeBusCond_of_busEnv h, ← hs0, readLoop, ← hs1, ← he,
      ← hx, ← hout]
    exact congrArg _ (hall.pushReply _)

/-! ### Storage -/

theorem SameStorage.refl (c : Chip) : SameStorage c c := ⟨rfl, rfl, rfl, rfl, rfl, rfl, rfl, rfl⟩

theorem SameStorage.trans {c d e : Chip} (h : SameStorage c d) (k : SameStorage d e) : SameStorage c e := by
  unfold SameStorage at *
  simp_all

theorem SameStorage.iocon_eq {c d : Chip} (h : SameStorage c d) : c.iocon = d.iocon := by
  obtain ⟨-, -, -, -, -, hio, -, -⟩ := h
  exact hio

/-- A write access keeps two chips alike in the storage registers. -/
theorem chipAfterWrite_congr {c d : Chip} (h : SameStorage c d) (r : Reg) (cfg : Params) (b : Byte) :
    SameStorage (chipAfterWrite r cfg b c) (chipAfterWrite r cfg b d) := by
  unfold SameStorage at *
  cases r <;> simp_all [chipAfterWrite]

/-- An evaluation writes no storage register (42_interrupt_comparator.md R104). -/
theorem evaluate_storage (s : State) : SameStorage (evaluate s).chip s.chip := by
  rw [evaluate_chip]; exact .refl _

/-- The end of an access writes no storage register. -/
theorem finishAccess_storage (r : Reg) (s : State) : SameStorage (finishAccess r s).chip s.chip :=
  evaluate_storage s

theorem envSteps_storage (es : List Ext) (s : State) : SameStorage (envSteps s es).chip s.chip := by
  induction es generalizing s with
  | nil => exact .refl _
  | cons e es ih => exact (ih (envStep s e)).trans (evaluate_storage _)

/-- A read access writes no storage register (20_memory.md R45). -/
theorem chipAfterRead_storage (r : Reg) (cfg : Params) (c : Chip) : SameStorage (chipAfterRead r cfg c) c := by
  cases r <;> exact .refl _

theorem memRead_storage (r : Reg) (s : State) : SameStorage (memRead r s).2.chip s.chip := by
  rw [memRead_snd_eq]; exact chipAfterRead_storage ..

theorem readLoop_storage (r : Reg) (n : Nat) (gaps : List (List Ext)) (s : State) :
    SameStorage (readLoop r n gaps s).2.chip s.chip := by
  induction n generalizing r gaps s with
  | zero => exact .refl _
  | succ n ih =>
    exact (ih ..).trans ((envSteps_storage ..).trans ((finishAccess_storage ..).trans (memRead_storage r s)))

theorem readTransaction_storage {dev : DevAddr} {r : Reg} {n : Nat} {s t : State}
    (e : readTransaction dev r n s = .next t) : SameStorage t.chip s.chip := by
  by_cases hd : dev = devAddr s
  · obtain ⟨s0, rep, hs0, ht⟩ := readTransaction_addressed s r n
    rw [hd, ht] at e
    cases e
    rcases hs0 with rfl | rfl
    · exact readLoop_storage ..
    · exact readLoop_storage ..
  · rw [readTransaction_foreign hd] at e
    cases e
    exact .refl _

/-- Settles O25: reads and environment steps write no storage register. -/
theorem readFormsKeepStorage : Obligations.ReadFormsKeepStorage := by
  intro dev n r s t e
  rw [exec_readForm] at e
  exact readTransaction_storage e

@[simp] theorem nextReg_finishAccess (r q : Reg) (s : State) : nextReg (finishAccess r s) q = nextReg s q := by
  rw [finishAccess_eq]; exact nextReg_evaluate s q

/-- One write to OLAT with SEQOP = 1: the pointer stays (40_register_access.md R66). -/
theorem finishAccess_olat {b : Byte} {s s1 : State} (hs : finishAccess .olat (memWrite .olat b s) = s1)
    (hseq : bitOf s.chip.iocon s.cfg.bitSeqop = true) :
    nextReg s1 .olat = .olat ∧ s1.chip.ptr = Reg.olat.addr ∧ SameStorage s1.chip { s.chip with olat := b } ∧
      s1.draws = s.draws + 1 ∧ s1.cfg = s.cfg := by
  subst hs
  have hnext : nextReg (finishAccess .olat (memWrite .olat b s)) .olat = .olat :=
    (nextReg_finishAccess ..).trans (if_pos hseq)
  exact ⟨hnext, (finishAccess_ptr ..).trans (congrArg _ hnext),
    finishAccess_storage .olat (memWrite .olat b s), rfl, rfl⟩

/-- A write loop at OLAT with SEQOP = 1 on a quiet bus. -/
theorem writeLoop_olat (data : List Byte) (b : Byte) (s : State)
    (hseq : bitOf s.chip.iocon s.cfg.bitSeqop = true) :
    (writeLoop .olat (data ++ [b]) [] s).chip.ptr = Reg.olat.addr ∧
    SameStorage (writeLoop .olat (data ++ [b]) [] s).chip { s.chip with olat := b } ∧
    (writeLoop .olat (data ++ [b]) [] s).draws = s.draws + data.length + 1 := by
  induction data generalizing s with
  | nil =>
    obtain ⟨-, hptr, hst, hdraws, -⟩ := finishAccess_olat (b := b) rfl hseq
    exact ⟨hptr, hst, hdraws⟩
  | cons d ds ih =>
    obtain ⟨s1, hs1⟩ : ∃ s1, finishAccess .olat (memWrite .olat d s) = s1 := ⟨_, rfl⟩
    obtain ⟨hnext, -, hst1, hdraws1, hcfg1⟩ := finishAccess_olat hs1 hseq
    have hloop : writeLoop .olat (d :: ds ++ [b]) [] s = writeLoop .olat (ds ++ [b]) [] s1 := by
      rw [List.cons_append, writeLoop, hs1, hnext]; rfl
    obtain ⟨hptr, hst, hdraws⟩ := ih s1 (by rw [hst1.iocon_eq, hcfg1]; exact hseq)
    rw [hloop]
    exact ⟨hptr, hst.trans (chipAfterWrite_congr hst1 .olat s.cfg b),
      by rw [hdraws, hdraws1, List.length_cons]; omega⟩

/-- Settles O20: the loop stays at OLAT. -/
theorem nonSequentialWriteStaysAtRegister : Obligations.NonSequentialWriteStaysAtRegister := by
  intro s data b hq hseq
  obtain ⟨hptr, hst, hdraws⟩ := writeLoop_olat data b (s.takeBusCond.setPtr .olat) hseq
  refine ⟨_, (exec_writeForm _ _ .olat s).trans (writeTransaction_completes hq ..), hptr, ?_, hst, hdraws⟩
  obtain ⟨-, -, -, -, -, -, -, holat⟩ := hst
  exact holat

end Sys2Proof.Machine
end

section
/-! What a frame on the bus does, by its header: another device, a reserved register, or the transaction of a
register (30_encoding.md R58, R59, 60_exceptions.md R126). -/

namespace Sys2Proof.Machine

theorem exec_foreign {i : Instr} {s : State} (h : i.dev ≠ devAddr s) :
    exec i s = .next (s.pushReply .busError) := by
  rcases instr_eq_form i with ⟨data, hi⟩ | ⟨n, hi⟩
  · rw [hi, exec_writeForm]; exact writeTransaction_foreign h ..
  · rw [hi, exec_readForm]; exact readTransaction_foreign h ..

theorem unlessForeign_addressed {dev : DevAddr} {s : State} (h : dev = devAddr s)
    (own : Host.Outcome State Fault Refusal) : unlessForeign dev s own = own := if_pos h

theorem unlessForeign_foreign {dev : DevAddr} {s : State} (h : dev ≠ devAddr s)
    (own : Host.Outcome State Fault Refusal) : unlessForeign dev s own = .next (s.pushReply .busError) := if_neg h

/-- A frame that names another device is not acknowledged, whatever the rest of it (R58). -/
theorem transact_foreign {dev : DevAddr} {s : State} (h : dev ≠ devAddr s) (rd : Bool) (reg : Byte)
    (data : List Byte) (n : Nat) :
    transact ⟨headerBytes (headerOf dev rd reg) ++ data, n⟩ s = .next (s.pushReply .busError) := by
  have hown := unlessForeign_foreign h
  by_cases hf : OfFamily dev
  · cases hr : Reg.ofAddr reg with
    | none => rw [transact, decode_reserved (by simpa using hf) (by simpa using hr)]; simp [hown]
    | some r =>
      cases rd with
      | false =>
        rw [transact, decode_write (by simpa using hf) (r := r) (by simpa using hr) (by simp)]
        by_cases hn : n = 0
        · simp [hn, writeTransaction_foreign h]
        · simp [hn, hown]
      | true =>
        rw [transact, decode_read (by simpa using hf) (r := r) (by simpa using hr) (by simp)]
        by_cases hn : data = []
        · simp [hn, readTransaction_foreign h]
        · simp [hn, hown]
  · rw [transact, decode_foreign (by simpa using hf)]

/-- Settles O22: neither an instruction nor a frame for another device is acknowledged. -/
theorem otherDeviceNotAcknowledged : Obligations.OtherDeviceNotAcknowledged := fun _ _ h =>
  ⟨fun _ hi => exec_foreign (hi.trans_ne h), transact_foreign h⟩

/-- The chip's address is one of the family (20_memory.md R40). -/
theorem ofFamily_devAddr (s : State) : OfFamily (devAddr s) := by
  have strap : ∀ x : BitVec 3, ((0x20 : DevAddr) ||| x.setWidth 7).extractLsb 6 3 = 0b0100#4 := by decide
  exact strap s.cfg.strap

/-- A frame to the chip with a reserved register address is a fault (R59). -/
theorem transact_reserved {reg : Byte} (h : 0x0A < reg) (s : State) (rd : Bool) (data : List Byte) (n : Nat) :
    transact ⟨headerBytes (headerOf (devAddr s) rd reg) ++ data, n⟩ s = .fault (.reservedRegister reg) := by
  have hnone : Reg.ofAddr reg = none := (ofAddr_eq_none_iff reg).mpr h
  rw [transact, decode_reserved (by simpa using ofFamily_devAddr s) (by simpa using hnone)]
  simp only [headerDev_headerOf, headerReg_headerOf]
  exact unlessForeign_addressed rfl _

/-- Settles O23: the register check is on the header alone. -/
theorem reservedRegisterFaults : Obligations.ReservedRegisterFaults :=
  fun s rd _ data n h => transact_reserved h s rd data n

/-- A write frame of an implemented register is its transaction, at any device address. -/
theorem transact_write (dev : DevAddr) (r : Reg) (data : List Byte) (s : State) :
    transact (.write dev r.addr data) s = writeTransaction dev r data s := by
  by_cases h : dev = devAddr s
  · have hdec : decode (.write dev r.addr data) = .ok (writeForm dev data r) :=
      (decode_eq_writeForm_iff ..).mpr
        ⟨isRow_headerOf _ _ _ (h ▸ ofFamily_devAddr s), (headerDev_headerOf ..).symm, rfl, rfl⟩
    rw [transact, hdec]; exact exec_writeForm ..
  · rw [writeTransaction_foreign h]; exact transact_foreign h false r.addr data 0

/-- A read frame of an implemented register is its transaction, at any device address. -/
theorem transact_read (dev : DevAddr) (r : Reg) (n : Nat) (s : State) :
    transact (.read dev r.addr n) s = readTransaction dev r n s := by
  by_cases h : dev = devAddr s
  · have hdec : decode (.read dev r.addr n) = .ok (readForm dev n r) :=
      (decode_eq_readForm_iff _ [] ..).mpr
        ⟨isRow_headerOf _ _ _ (h ▸ ofFamily_devAddr s), (headerDev_headerOf ..).symm, rfl, rfl⟩
    rw [transact, hdec]; exact exec_readForm ..
  · rw [readTransaction_foreign h]; exact transact_foreign h true r.addr [] n

/-- The frame a host operation writes answers a next state or is the fault of a reserved address. -/
theorem transact_write_cases (dev : DevAddr) (a : Byte) (data : List Byte) (s : State) :
    (∃ t, transact (.write dev a data) s = .next t) ∨
    (0x0A < a ∧ transact (.write dev a data) s = .fault (.reservedRegister a)) := by
  cases hr : Reg.ofAddr a with
  | some r =>
    rw [addr_of_ofAddr hr, transact_write]
    exact .inl (writeTransaction_next ..)
  | none =>
    have ha := (ofAddr_eq_none_iff a).mp hr
    by_cases h : dev = devAddr s
    · exact .inr ⟨ha, h ▸ transact_reserved ha s false data 0⟩
    · exact .inl ⟨_, transact_foreign h false a data 0⟩

/-- The frame a host operation reads with answers a next state or is the fault of a reserved address. -/
theorem transact_read_cases (dev : DevAddr) (a : Byte) (n : Nat) (s : State) :
    (∃ t, transact (.read dev a n) s = .next t) ∨
    (0x0A < a ∧ transact (.read dev a n) s = .fault (.reservedRegister a)) := by
  cases hr : Reg.ofAddr a with
  | some r =>
    rw [addr_of_ofAddr hr, transact_read]
    exact .inl (readTransaction_next ..)
  | none =>
    have ha := (ofAddr_eq_none_iff a).mp hr
    by_cases h : dev = devAddr s
    · exact .inr ⟨ha, h ▸ transact_reserved ha s true [] n⟩
    · exact .inl ⟨_, transact_foreign h true a [] n⟩

/-- A transaction that answers ran an instruction, or was not acknowledged. -/
theorem transact_next {f : Frame} {s t : State} (e : transact f s = .next t) :
    (∃ i, decode f = .ok i ∧ exec i s = .next t) ∨ t = s.pushReply .busError := by
  unfold transact unlessForeign at e
  split at e
  · next i hi => exact .inl ⟨i, hi, e⟩
  · cases e; exact .inr rfl
  · split at e <;> cases e; exact .inr rfl
  · split at e <;> cases e; exact .inr rfl
  · split at e <;> cases e; exact .inr rfl
  · cases e

/-- Settles O21: a failed transaction runs the loop of the shorter one. -/
theorem failedTransactionPerformsPrefix : Obligations.FailedTransactionPerformsPrefix := by
  intro s r data n f gaps rest h
  have hc := busCond_of_busEnv h
  have hsame : SameHosts { s with busEnv := rest } ({ s with busEnv := rest }.setPtr r) := setPtr_sameHosts r _
  simp only [exec_writeForm, exec_readForm, writeTransaction_fails hc, readTransaction_fails hc,
    takeBusCond_of_busEnv h]
  refine ⟨fun hk => ?_, fun hk => ?_, fun hp hk => ?_, fun hp hk => ?_⟩
  · have hset : f.ptrSet = true ∨ 0 < min f.after data.length :=
      hk.imp_right fun ⟨ha, hd⟩ => lt_min ha (List.length_pos_iff.mpr hd)
    rw [failedStart_set hset]
    have hend := hsame.trans (writeLoop_sameHosts r (data.take f.after) gaps _)
    refine ⟨_, writeTransaction_given s gaps rest r (data.take f.after), ?_⟩
    rw [hend.pushReply, hend.pushReply]
  · have hset : f.ptrSet = true ∨ 0 < min f.after n := hk.imp_right fun ⟨ha, hn⟩ => lt_min ha hn
    rw [failedStart_set hset]
    have hend := hsame.trans (readLoop_sameHosts r (min f.after n) gaps _)
    refine ⟨_, readTransaction_given s gaps rest r (min f.after n), ?_⟩
    rw [hend.pushReply, hend.pushReply]
  · have htake : data.take f.after = [] := List.take_eq_nil_iff.mpr hk
    have hzero : min f.after data.length = 0 := by rw [← List.length_take, htake]; rfl
    rw [hzero, failedStart_unset hp, htake]
    rfl
  · have hzero : min f.after n = 0 := Nat.min_eq_zero_iff.mpr hk
    rw [hzero, failedStart_unset hp]
    rfl

/-- Settles O24: the accesses leave the host's part and the parameters, and one reply is delivered. -/
theorem transactionFrame : Obligations.TransactionFrame := by
  intro i s
  by_cases hdev : i.dev = devAddr s
  · rcases instr_eq_form i with ⟨data, hi⟩ | ⟨n, hi⟩
    · obtain ⟨s0, rep, hs0, ht⟩ := writeTransaction_addressed s i.reg data
      rw [hi, exec_writeForm, hdev, ht]
      have hend := writeLoop_sameHosts i.reg (data.take (accessesMade s data.length)) s.busCond.gaps s0
      refine ⟨_, rep, rfl, ?_⟩
      rcases hs0 with rfl | rfl <;>
        exact ⟨writeLoop_cfg .., hend.drivers, hend.schedule, congrArg _ hend.replies, fun _ => hend.busEnv⟩
    · obtain ⟨s0, rep, hs0, ht⟩ := readTransaction_addressed s i.reg n
      rw [hi, exec_readForm, hdev, ht]
      have hend := readLoop_sameHosts i.reg (accessesMade s n) s.busCond.gaps s0
      refine ⟨_, rep, rfl, ?_⟩
      rcases hs0 with rfl | rfl <;>
        exact ⟨readLoop_cfg .., hend.drivers, hend.schedule, congrArg _ hend.replies, fun _ => hend.busEnv⟩
  · exact ⟨_, _, exec_foreign hdev, rfl, rfl, rfl, rfl, fun h => absurd h hdev⟩

end Sys2Proof.Machine
end

section
/-! A transaction with other host drivers and another schedule in the state (60_exceptions.md §3). -/

namespace Sys2Proof.Machine

/-- `s` with other host drivers and another schedule. -/
def State.withAgents (s : State) (ds : List Driver) (ts : List Turn) : State :=
  { s with drivers := ds, schedule := ts }

section
variable (ds : List Driver) (ts : List Turn)

theorem SameHosts.withAgents {s t : State} (h : SameHosts s t) :
    t.withHosts ds s.replies ts s.busEnv = t.withAgents ds ts := by
  rw [State.withHosts, ← h.replies, ← h.busEnv]; rfl

theorem writeLoop_withAgents (r : Reg) (data : List Byte) (gaps : List (List Ext)) (s : State) :
    writeLoop r data gaps (s.withAgents ds ts) = (writeLoop r data gaps s).withAgents ds ts :=
  (writeLoop_withHosts ds s.replies ts s.busEnv r data gaps s).trans
    ((writeLoop_sameHosts r data gaps s).withAgents ds ts)

theorem readLoop_withAgents_fst (r : Reg) (n : Nat) (gaps : List (List Ext)) (s : State) :
    (readLoop r n gaps (s.withAgents ds ts)).1 = (readLoop r n gaps s).1 :=
  readLoop_withHosts_fst ds s.replies ts s.busEnv r n gaps s

theorem readLoop_withAgents_snd (r : Reg) (n : Nat) (gaps : List (List Ext)) (s : State) :
    (readLoop r n gaps (s.withAgents ds ts)).2 = (readLoop r n gaps s).2.withAgents ds ts :=
  (readLoop_withHosts_snd ds s.replies ts s.busEnv r n gaps s).trans
    ((readLoop_sameHosts r n gaps s).withAgents ds ts)

theorem failedStart_withAgents (r : Reg) (f : BusFailure) (k : Nat) (s : State) :
    failedStart r f k (s.withAgents ds ts) = (failedStart r f k s).withAgents ds ts := by
  unfold failedStart; split <;> rfl

theorem writeTransaction_withAgents (dev : DevAddr) (r : Reg) (data : List Byte) (s : State) :
    writeTransaction dev r data (s.withAgents ds ts) =
      andThen (writeTransaction dev r data s) fun t => .next (t.withAgents ds ts) := by
  by_cases h : dev = devAddr s
  · subst h
    rcases hc : s.busCond with ⟨_ | f, gaps⟩
    · rw [writeTransaction_completes hc]
      refine (writeTransaction_completes (s := s.withAgents ds ts) hc r data).trans ?_
      have hstart : (s.withAgents ds ts).takeBusCond.setPtr r = (s.takeBusCond.setPtr r).withAgents ds ts := rfl
      rw [hstart, writeLoop_withAgents]
      rfl
    · rw [writeTransaction_fails hc]
      refine (writeTransaction_fails (s := s.withAgents ds ts) hc r data).trans ?_
      have hstart : failedStart r f (min f.after data.length) (s.withAgents ds ts).takeBusCond = _ :=
        failedStart_withAgents ds ts r f (min f.after data.length) s.takeBusCond
      rw [hstart, writeLoop_withAgents]
      rfl
  · rw [writeTransaction_foreign h]
    exact writeTransaction_foreign (s := s.withAgents ds ts) h r data

theorem readTransaction_withAgents (dev : DevAddr) (r : Reg) (n : Nat) (s : State) :
    readTransaction dev r n (s.withAgents ds ts) =
      andThen (readTransaction dev r n s) fun t => .next (t.withAgents ds ts) := by
  by_cases h : dev = devAddr s
  · subst h
    rcases hc : s.busCond with ⟨_ | f, gaps⟩
    · rw [readTransaction_completes hc]
      refine (readTransaction_completes (s := s.withAgents ds ts) hc r n).trans ?_
      have hstart : (s.withAgents ds ts).takeBusCond.setPtr r = (s.takeBusCond.setPtr r).withAgents ds ts := rfl
      rw [hstart, readLoop_withAgents_fst, readLoop_withAgents_snd]
      rfl
    · rw [readTransaction_fails hc]
      refine (readTransaction_fails (s := s.withAgents ds ts) hc r n).trans ?_
      have hstart : failedStart r f (min f.after n) (s.withAgents ds ts).takeBusCond = _ :=
        failedStart_withAgents ds ts r f (min f.after n) s.takeBusCond
      rw [hstart, readLoop_withAgents_snd]
      rfl
  · rw [readTransaction_foreign h]
    exact readTransaction_foreign (s := s.withAgents ds ts) h r n

theorem exec_withAgents (i : Instr) (s : State) :
    exec i (s.withAgents ds ts) = andThen (exec i s) fun t => .next (t.withAgents ds ts) := by
  rcases instr_eq_form i with ⟨data, hi⟩ | ⟨n, hi⟩
  · rw [hi, exec_writeForm, exec_writeForm]; exact writeTransaction_withAgents ..
  · rw [hi, exec_readForm, exec_readForm]; exact readTransaction_withAgents ..

/-- A transaction is blind to the host drivers and the schedule. -/
theorem transact_withAgents (f : Frame) (s : State) :
    transact f (s.withAgents ds ts) = andThen (transact f s) fun t => .next (t.withAgents ds ts) := by
  have hown : ∀ dev o, andThen o (fun t => .next (t.withAgents ds ts)) = o →
      unlessForeign dev (s.withAgents ds ts) o =
        andThen (unlessForeign dev s o) fun t => .next (t.withAgents ds ts) := by
    intro dev o ho
    by_cases h : dev = devAddr s
    · rw [unlessForeign_addressed h, unlessForeign_addressed (s := s.withAgents ds ts) h, ho]
    · rw [unlessForeign_foreign h, unlessForeign_foreign (s := s.withAgents ds ts) h]; rfl
  unfold transact
  split
  · exact exec_withAgents ds ts _ s
  · rfl
  · exact hown _ _ rfl
  · exact hown _ _ rfl
  · exact hown _ _ rfl
  · rfl

end

/-- Settles O26: a transaction is blind to the host drivers and the schedule. -/
theorem chipBlindToHosts : Obligations.ChipBlindToHosts := by
  intro f s t ds ts e
  exact (transact_withAgents ds ts f s).trans (by rw [e]; rfl)

end Sys2Proof.Machine
end

section
/-! A pending flag survives whatever performs no clearing access (42_interrupt_comparator.md R104, R106). -/

namespace Sys2Proof.Machine

/-- The flags pending in `s` are still pending in `t`, and the capture of their latch stands. -/
def FlagsKept (s t : State) : Prop :=
  t.cfg = s.cfg ∧ t.chip.intf &&& s.chip.intf = s.chip.intf ∧ t.chip.intcap = s.chip.intcap ∧
    (s.cfg.intfAccumulate = false → t.chip.intf = s.chip.intf)

theorem FlagsKept.refl (s : State) : FlagsKept s s := ⟨rfl, BitVec.and_self, rfl, fun _ => rfl⟩

/-- A flag pending in `s` keeps INTF nonzero. -/
theorem FlagsKept.intf_ne_zero {s t : State} (h : FlagsKept s t) (hs : s.chip.intf ≠ 0x00) :
    t.chip.intf ≠ 0x00 := by
  obtain ⟨-, hflags, -, -⟩ := h
  intro h0
  rw [h0] at hflags
  exact hs (hflags.symm.trans (BitVec.zero_and ..))

/-- A flag that is set stays set when others accumulate. -/
theorem or_and_eq_of_and_eq {x y f : Byte} (h : x &&& f = f) : (x ||| y) &&& f = f := by
  refine byte_ext fun p => ?_
  have hp := congrArg (bitOf · p) h
  simp only [bitOf_and, bitOf_or] at hp ⊢
  cases hf : bitOf f p <;> simp_all

/-- No write access reaches INTF or INTCAP (40_register_access.md R82, R84). -/
theorem FlagsKept.after_memWrite {s t : State} (h : FlagsKept s t) (r : Reg) (b : Byte) :
    FlagsKept s (memWrite r b t) := by
  cases r <;> exact h

/-- A read access that does not clear leaves the chip (R69 to R89). -/
theorem FlagsKept.after_memRead {s t : State} (h : FlagsKept s t) {r : Reg} (hr : clearsFlags s.cfg r = false) :
    FlagsKept s (memRead r t).2 := by
  have hchip : chipAfterRead r t.cfg t.chip = t.chip := by
    obtain ⟨hcfg, -, -, -⟩ := h
    cases r <;> try rfl
    case intcap => cases hr
    case gpio =>
      have hkeep : s.cfg.gpioReadClears = false := hr
      simp [chipAfterRead, hcfg, hkeep]
  rw [memRead_snd_eq, hchip]
  exact h

section
variable {s : State} (hs : s.chip.intf ≠ 0x00)
include hs

/-- An evaluation with a latch pending adds flags at most (R104). -/
theorem FlagsKept.after_evaluate {t : State} (h : FlagsKept s t) : FlagsKept s (evaluate t) := by
  have hne := h.intf_ne_zero hs
  obtain ⟨hcfg, hflags, hcap, hexact⟩ := h
  rw [FlagsKept, evaluate_chip, latchStep_intf, latchStep_intcap, evaluate_cfg, hcfg]
  simp only [hne, false_and, if_false]
  refine ⟨trivial, ?_, hcap, fun hacc => ?_⟩
  · split
    · exact or_and_eq_of_and_eq hflags
    · exact hflags
  · rw [hacc]; exact hexact hacc

theorem FlagsKept.after_finishAccess {t : State} (h : FlagsKept s t) (r : Reg) : FlagsKept s (finishAccess r t) :=
  FlagsKept.after_evaluate hs h

theorem FlagsKept.after_envSteps {t : State} (h : FlagsKept s t) (es : List Ext) :
    FlagsKept s (envSteps t es) := by
  induction es generalizing t with
  | nil => exact h
  | cons e es ih => exact ih (FlagsKept.after_evaluate hs (t := t.setExt e) h)

theorem FlagsKept.after_writeLoop {t : State} (h : FlagsKept s t) (r : Reg) (data : List Byte)
    (gaps : List (List Ext)) : FlagsKept s (writeLoop r data gaps t) := by
  induction data generalizing r gaps t with
  | nil => exact h
  | cons b bs ih => exact ih (((h.after_memWrite r b).after_finishAccess hs r).after_envSteps hs _) ..

end

/-- The registers a read accesses are fixed by IOCON and the parameters. -/
theorem readOrder_congr {s t : State} (hio : t.chip.iocon = s.chip.iocon) (hcfg : t.cfg = s.cfg) (r : Reg)
    (n : Nat) : readOrder t r n = readOrder s r n := by
  have hnext : ∀ q, nextReg t q = nextReg s q := fun q => by unfold nextReg; rw [hio, hcfg]
  induction n generalizing r with
  | zero => rfl
  | succ n ih => simp [readOrder, hnext, ih]

theorem FlagsKept.after_readLoop {s : State} (hs : s.chip.intf ≠ 0x00) {t : State} (h : FlagsKept s t) (r : Reg)
    (n : Nat) (gaps : List (List Ext)) (hclear : ∀ q ∈ readOrder t r n, clearsFlags s.cfg q = false) :
    FlagsKept s (readLoop r n gaps t).2 := by
  induction n generalizing r gaps t with
  | zero => exact h
  | succ n ih =>
    have hr : clearsFlags s.cfg r = false := hclear r (List.mem_cons_self ..)
    have hcfg : (finishAccess r (memRead r t).2).cfg = t.cfg := by simp [finishAccess_eq]
    have hio : (finishAccess r (memRead r t).2).chip.iocon = t.chip.iocon := by simp [finishAccess_eq]
    have hnext : nextReg (finishAccess r (memRead r t).2) r = nextReg t r := by
      unfold nextReg; rw [hio, hcfg]
    refine ih (((h.after_memRead hr).after_finishAccess hs r).after_envSteps hs _) _ _ fun q hq => hclear q ?_
    rw [readOrder_congr ((envSteps_storage ..).iocon_eq.trans hio) ((envSteps_cfg ..).trans hcfg), hnext] at hq
    exact List.mem_cons_of_mem _ hq

/-- An instruction that performs no clearing access keeps the pending flags, failed or not. -/
theorem exec_flagsKept {i : Instr} {s t : State} (hs : s.chip.intf ≠ 0x00) (hclear : ClearsNothing i s)
    (e : exec i s = .next t) : FlagsKept s t := by
  by_cases hdev : i.dev = devAddr s
  · rcases instr_eq_form i with ⟨data, hi⟩ | ⟨n, hi⟩
    · obtain ⟨s0, rep, hs0, ht⟩ := writeTransaction_addressed s i.reg data
      rw [hi, exec_writeForm, hdev, ht] at e
      cases e
      have h0 : FlagsKept s s0 := by rcases hs0 with rfl | rfl <;> exact .refl s
      exact h0.after_writeLoop hs i.reg _ _
    · obtain ⟨s0, rep, hs0, ht⟩ := readTransaction_addressed s i.reg n
      have hnone := hclear _ _ _ hi hdev
      rw [hi, exec_readForm, hdev, ht] at e
      cases e
      have h0 : FlagsKept s s0 := by rcases hs0 with rfl | rfl <;> exact .refl s
      have horder : ∀ k, readOrder s0 i.reg k = readOrder s i.reg k :=
        readOrder_congr (by rcases hs0 with rfl | rfl <;> rfl) (by rcases hs0 with rfl | rfl <;> rfl) _
      exact h0.after_readLoop hs i.reg _ _ (horder _ ▸ hnone)
  · rw [exec_foreign hdev] at e
    cases e
    exact .refl s

/-- A frame that performs no clearing access keeps the pending flags. -/
theorem transact_flagsKept {f : Frame} {s t : State} (hs : s.chip.intf ≠ 0x00)
    (hclear : ∀ i, decode f = .ok i → ClearsNothing i s) (e : transact f s = .next t) : FlagsKept s t := by
  rcases transact_next e with ⟨i, hi, he⟩ | rfl
  · exact exec_flagsKept hs (hclear i hi) he
  · exact FlagsKept.refl s

/-- A move of an operation in progress is the transaction that `scriptFrame` names, or the host's own. -/
theorem scriptStep_frame {h : HostSide} {k : Script} {s : State} {t : State × Script}
    (e : scriptStep h k s = .next t) :
    t.1 = s ∨ ∃ f, scriptFrame h k = some f ∧ transact f s = .next t.1 := by
  cases k <;> simp only [scriptStep, busRead, busWrite] at e
  case done => cases e; exact .inl rfl
  case qualify => cases e; exact .inl rfl
  all_goals
    obtain ⟨a, h1, h2⟩ := andThen_next e
    obtain ⟨b, h3, h4⟩ := andThen_next h1
    cases h2; cases h4
    exact .inr ⟨_, rfl, h3⟩

/-- A turn is the transaction that `turnFrame` names with the drivers changed, or a change of the drivers only, or
an environment step, or a chip reset. -/
theorem takeTurn_cases {u : Turn} {s t : State} (e : takeTurn u s = .next t) :
    (∃ f v ds, turnFrame u s = some f ∧ transact f s = .next v ∧ t = v.setDrivers ds) ∨
    (∃ ds, t = s.setDrivers ds) ∨ (∃ x, t = envStep s x) ∨ u = .chipReset := by
  cases u with
  | direct f => exact .inl ⟨f, t, t.drivers, rfl, e, rfl⟩
  | environ x => cases e; exact .inr (.inr (.inl ⟨x, rfl⟩))
  | chipReset => exact .inr (.inr (.inr rfl))
  | hostRestart d =>
    simp only [takeTurn, hostRestart] at e
    split at e <;> cases e
    · exact .inr (.inl ⟨s.drivers, rfl⟩)
    · exact .inr (.inl ⟨_, rfl⟩)
  | host d c =>
    simp only [takeTurn, hostTurn] at e
    split at e
    · cases e; exact .inr (.inl ⟨s.drivers, rfl⟩)
    next drv hdrv =>
    split at e
    · cases e; exact .inr (.inl ⟨s.drivers, rfl⟩)
    next ctx hctx =>
    unfold contextMove at e
    split at e
    · next k hk =>
      obtain ⟨a, h1, h2⟩ := andThen_next e
      cases h2
      rcases scriptStep_frame h1 with h3 | ⟨f, hf, h3⟩
      · exact .inr (.inl ⟨_, by rw [h3]; rfl⟩)
      · exact .inl ⟨f, a.1, _, by simp [turnFrame, hdrv, hctx, hk, hf], h3, rfl⟩
    · split at e
      · cases e; exact .inr (.inl ⟨s.drivers, rfl⟩)
      · dsimp only at e
        split at e <;> cases e
        · exact .inr (.inl ⟨_, rfl⟩)
        · exact .inr (.inl ⟨_, rfl⟩)

/-- A turn that is no reset and performs no clearing access keeps the pending flags. -/
theorem takeTurn_flagsKept {u : Turn} {s t : State} (hs : s.chip.intf ≠ 0x00) (hu : u ≠ .chipReset)
    (hclear : ∀ f i, turnFrame u s = some f → decode f = .ok i → ClearsNothing i s)
    (e : takeTurn u s = .next t) : FlagsKept s t := by
  rcases takeTurn_cases e with ⟨f, v, ds, hf, hv, rfl⟩ | ⟨ds, rfl⟩ | ⟨x, rfl⟩ | hr
  · have hv : FlagsKept s v := transact_flagsKept hs (fun i => hclear f i hf) hv
    exact hv
  · exact FlagsKept.refl s
  · exact FlagsKept.after_evaluate hs (t := s.setExt x) (.refl s)
  · exact absurd hr hu

/-- The registers an instruction accesses do not depend on the schedule. -/
theorem ClearsNothing.setSchedule {i : Instr} {s : State} (h : ClearsNothing i s) (ts : List Turn) :
    ClearsNothing i (s.setSchedule ts) := by
  intro dev n r hi hdev
  rw [readOrder_congr (s := s) (t := s.setSchedule ts) rfl rfl]
  exact h dev n r hi hdev

/-- Settles O31: every instruction, turn and environment step that clears nothing keeps the pending flags. -/
theorem pendingFlagsSurvive : Obligations.PendingFlagsSurvive := by
  intro s t hs hcase
  have hkept : FlagsKept s t := by
    rcases hcase with ⟨i, hclear, e⟩ | ⟨hturn, e⟩ | ⟨x, rfl⟩
    · exact exec_flagsKept hs hclear e
    · cases hsch : s.schedule with
      | nil =>
        rw [stepRunsDecodedInstruction.2 s hsch] at e
        cases e
        exact FlagsKept.refl s
      | cons u ts =>
        obtain ⟨hu, hclear⟩ := hturn u ts hsch
        rw [step_cons hsch] at e
        exact takeTurn_flagsKept (s := s.setSchedule ts) hs hu
          (fun f i hf hi => (hclear f i hf hi).setSchedule ts) e
    · exact FlagsKept.after_evaluate hs (t := s.setExt x) (.refl s)
  obtain ⟨-, hflags, hcap, hexact⟩ := hkept
  exact ⟨hflags, hcap, hexact⟩

end Sys2Proof.Machine
end

section
/-! A host operation in progress, move by move (20_memory.md §4, log entry 12). -/

namespace Sys2Proof.Machine

/-- The moves that an operation in progress still makes at most. -/
def Script.movesLeft : Script → Nat
  | .done _ => 0
  | .write _ _ k => k.movesLeft + 1
  | .rmw _ _ _ k => k.movesLeft + 2
  | .read _ _ | .qualify _ _ => 1
  | .readPending => 3
  | .readCaptured _ => 2

/-- A move brings the operation nearer to its end. -/
theorem scriptStep_movesLeft {h : HostSide} {k k' : Script} {s t : State}
    (e : scriptStep h k s = .next (t, k')) (hk : ∀ r, k ≠ .done r) : k'.movesLeft < k.movesLeft := by
  cases k with
  | done r => exact absurd rfl (hk r)
  | qualify x y => cases e; exact Nat.zero_lt_one
  | write a b k =>
    obtain ⟨u, -, hu⟩ := andThen_next e
    cases hu
    split <;> simp [Script.movesLeft]
  | rmw _ _ _ _ | read _ _ | readPending | readCaptured _ =>
    obtain ⟨u, -, hu⟩ := andThen_next e
    cases hu
    cases u.2 <;> simp [Script.movesLeft]

theorem andThen_assoc {α β γ : Type} (o : Host.Outcome α Fault Refusal)
    (f : α → Host.Outcome β Fault Refusal) (g : β → Host.Outcome γ Fault Refusal) :
    andThen (andThen o f) g = andThen o fun x => andThen (f x) g := by
  cases o <;> rfl

/-- An operation carried to its end is its next move and the rest carried to its end. -/
theorem runScript_eq_scriptStep (h : HostSide) (k : Script) (s : State) :
    runScript h k s = andThen (scriptStep h k s) fun t => runScript h t.2 t.1 := by
  cases k with
  | done _ | qualify _ _ => rfl
  | write _ _ _ | rmw _ _ _ _ | read _ _ | readPending | readCaptured _ =>
    rw [runScript, scriptStep, andThen_assoc]
    refine congrArg _ (funext fun ⟨t, x⟩ => ?_)
    cases x <;> rfl

/-- A host operation's read answers or is the fault of a reserved address. -/
theorem busRead_cases (h : HostSide) (a : Byte) (s : State) :
    (∃ t, busRead h a s = .next t) ∨ (0x0A < a ∧ busRead h a s = .fault (.reservedRegister a)) := by
  rcases transact_read_cases h.addr a 1 s with ⟨t, ht⟩ | ⟨ha, ht⟩
  · exact .inl ⟨_, by rw [busRead, ht]; rfl⟩
  · exact .inr ⟨ha, by rw [busRead, ht]; rfl⟩

/-- A host operation's write answers or is the fault of a reserved address. -/
theorem busWrite_cases (h : HostSide) (a b : Byte) (s : State) :
    (∃ t, busWrite h a b s = .next t) ∨ (0x0A < a ∧ busWrite h a b s = .fault (.reservedRegister a)) := by
  rcases transact_write_cases h.addr a [b] s with ⟨t, ht⟩ | ⟨ha, ht⟩
  · exact .inl ⟨_, by rw [busWrite, ht]; rfl⟩
  · exact .inr ⟨ha, by rw [busWrite, ht]; rfl⟩

/-- What follows an outcome that answers or is the fault of a reserved address, when it always answers itself. -/
theorem andThen_cases {α β : Type} {o : Host.Outcome α Fault Refusal} {a : Byte} {g : α → β}
    (h : (∃ t, o = .next t) ∨ (0x0A < a ∧ o = .fault (.reservedRegister a))) :
    (∃ t, andThen o (fun x => .next (g x)) = .next t) ∨
    ∃ a : Byte, 0x0A < a ∧ andThen o (fun x => .next (g x)) = .fault (.reservedRegister a) := by
  rcases h with ⟨t, rfl⟩ | ⟨ha, rfl⟩
  · exact .inl ⟨_, rfl⟩
  · exact .inr ⟨a, ha, rfl⟩

/-- A move of an operation in progress answers or is the fault of a reserved address. -/
theorem scriptStep_stops (h : HostSide) (k : Script) (s : State) :
    (∃ t, scriptStep h k s = .next t) ∨
    ∃ a : Byte, 0x0A < a ∧ scriptStep h k s = .fault (.reservedRegister a) := by
  cases k with
  | done r => exact .inl ⟨_, rfl⟩
  | qualify x y => exact .inl ⟨_, rfl⟩
  | write a b k => exact andThen_cases (busWrite_cases h a b s)
  | rmw a p v k => exact andThen_cases (busRead_cases h a s)
  | read a u => exact andThen_cases (busRead_cases h a s)
  | readPending => exact andThen_cases (busRead_cases h Reg.intf.addr s)
  | readCaptured x => exact andThen_cases (busRead_cases h Reg.intcap.addr s)

/-- An operation in progress answers or is the fault of a reserved address. -/
theorem runScript_stops (h : HostSide) (k : Script) (s : State) :
    (∃ t, runScript h k s = .next t) ∨
    ∃ a : Byte, 0x0A < a ∧ runScript h k s = .fault (.reservedRegister a) := by
  by_cases hk : ∃ r, k = .done r
  · obtain ⟨r, rfl⟩ := hk
    exact .inl ⟨_, rfl⟩
  · rw [runScript_eq_scriptStep]
    rcases scriptStep_stops h k s with ⟨⟨t, k'⟩, ht⟩ | ⟨a, ha, ht⟩
    · have hless : k'.movesLeft < k.movesLeft := scriptStep_movesLeft ht fun r e => hk ⟨r, e⟩
      rw [ht]
      exact runScript_stops h k' t
    · exact .inr ⟨a, ha, by rw [ht]; rfl⟩
termination_by k.movesLeft

end Sys2Proof.Machine
end

section
/-! The checks of a host operation's operands (40_register_access.md R90, 60_exceptions.md R125, R126). -/

namespace Sys2Proof.Machine

@[simp] theorem pinOf_pin (p : Pin) : pinOf (p : Nat) = some p := by
  revert p; decide

@[simp] theorem checkPin_pin (cfg : Params) (p : Pin) (r : OpResult) (go : Pin → Launch) :
    checkPin cfg (p : Nat) r go = go p := by
  rw [checkPin, pinOf_pin]

/-- The bounds check of an index outside 0 to 7 (R90). -/
theorem checkPin_out_of_range {p : Int} (hp : p < 0 ∨ 7 < p) (cfg : Params) (r : OpResult) (go : Pin → Launch) :
    checkPin cfg p r go = .returns (match cfg.invalidPin with
      | .silent => r
      | .explicit => .invalidPin) := by
  have hnone : pinOf p = none := dif_neg (by omega)
  rw [checkPin, hnone]
  cases cfg.invalidPin <;> rfl

/-- An operation that returns at once changes nothing. -/
theorem runOp_returns {op : HostOp} {h : HostSide} {s : State} {r : OpResult}
    (e : launch op s.cfg h = .returns r) : runOp op h s = .next (s, h, r) := by
  rw [runOp, e]

/-- An operation with an operand outside its type is a fault. -/
theorem runOp_bad {op : HostOp} {h : HostSide} {s : State} (e : launch op s.cfg h = .bad) :
    runOp op h s = .fault (.badOperand op) := by
  rw [runOp, e]

/-- An operation that issues transactions is its script, carried to its end. -/
theorem runOp_runs {op : HostOp} {h h' : HostSide} {s : State} {k : Script}
    (e : launch op s.cfg h = .runs h' k) :
    runOp op h s = andThen (runScript h' k s) fun t => .next (t.1, h', t.2) := by
  rw [runOp, e]

/-- Settles O50: the bounds check comes first in each of the eight operations. -/
theorem outOfRangePinIsNoOp : Obligations.OutOfRangePinIsNoOp := by
  intro h s p a v d l m hp
  have hcheck := checkPin_out_of_range hp s.cfg
  exact ⟨runOp_returns (hcheck ..), runOp_returns (hcheck ..), runOp_returns (hcheck ..),
    runOp_returns (hcheck ..), runOp_returns (hcheck ..), runOp_returns (hcheck ..), runOp_returns (hcheck ..),
    runOp_returns (hcheck ..)⟩

theorem checkPin_ne_bad {cfg : Params} {p : Int} {r : OpResult} {go : Pin → Launch} (h : ∀ q, go q ≠ .bad) :
    checkPin cfg p r go ≠ .bad := by
  unfold checkPin
  split
  · exact h _
  · split <;> simp

theorem checkArg_ne_bad {α : Type} {a : Arg α} {go : α → Launch} (ha : a.isVal = true) (h : ∀ x, go x ≠ .bad) :
    checkArg a go ≠ .bad := by
  cases a with
  | val x => exact h x
  | bad n => cases ha

theorem launchSetBit_ne_bad (cfg : Params) (h : HostSide) (a : Byte) (p : Int) (v : Bool) :
    launchSetBit cfg h a p v ≠ .bad := checkPin_ne_bad fun _ => by simp

theorem launchDisableInterrupt_ne_bad (cfg : Params) (h : HostSide) (p : Int) :
    launchDisableInterrupt cfg h p ≠ .bad := checkPin_ne_bad fun _ => by simp

/-- Codes 6 and 7 name no trigger mode (10_state.md R36). -/
theorem modeOfCode_eq_none_iff (m : BitVec 3) : modeOfCode m = none ↔ 5 < m.toNat := by
  revert m; decide

theorem launchEnableInterrupt_ne_bad (cfg : Params) (h : HostSide) (p : Int) {m : BitVec 3} (hm : m.toNat < 6) :
    launchEnableInterrupt cfg h p m ≠ .bad := by
  refine checkPin_ne_bad fun q => ?_
  cases hmode : modeOfCode m with
  | none => have := (modeOfCode_eq_none_iff m).mp hmode; omega
  | some mode =>
    dsimp only
    split
    · exact launchDisableInterrupt_ne_bad cfg h p
    · simp

/-- An operation whose operands are of their types passes their checks (R125). -/
theorem launch_ne_bad {op : HostOp} (hwf : op.WellFormed = true) (cfg : Params) (h : HostSide) :
    launch op cfg h ≠ .bad := by
  cases op with
  | readRegister _ | writeRegister _ _ | readPort | writePort _ | evaluatePendingInterrupts
  | getInterruptPolarity | getInterruptDrive | beginOp _ => exact Launch.noConfusion
  | setBit a p v => exact launchSetBit_ne_bad _ _ _ _ _
  | setPullUp p e => exact launchSetBit_ne_bad _ _ _ _ _
  | setInputPolarity p i => exact launchSetBit_ne_bad _ _ _ _ _
  | setDirection p d => exact checkPin_ne_bad fun _ => checkArg_ne_bad hwf fun _ => launchSetBit_ne_bad _ _ _ _ _
  | writePin p l => exact checkPin_ne_bad fun _ => checkArg_ne_bad hwf fun _ => launchSetBit_ne_bad _ _ _ _ _
  | readPin p => exact checkPin_ne_bad fun _ => Launch.noConfusion
  | enableInterrupt p m => exact launchEnableInterrupt_ne_bad cfg h p (of_decide_eq_true hwf)
  | disableInterrupt p => exact launchDisableInterrupt_ne_bad cfg h p
  | setConfigField f v => exact checkArg_ne_bad hwf fun _ => Launch.noConfusion
  | getConfigField f => exact checkArg_ne_bad hwf fun _ => Launch.noConfusion
  | setInterruptPolarity pol => exact checkArg_ne_bad hwf fun _ => Launch.noConfusion
  | setInterruptDrive d => exact checkArg_ne_bad hwf fun _ => Launch.noConfusion

/-- An operation in progress is never the fault BadOperand. -/
theorem runOp_ne_badOperand {op op' : HostOp} (hwf : op.WellFormed = true) (h : HostSide) (s : State) :
    runOp op h s ≠ .fault (.badOperand op') := by
  cases hl : launch op s.cfg h with
  | bad => exact absurd hl (launch_ne_bad hwf s.cfg h)
  | returns r => simp [runOp_returns hl]
  | runs h' k =>
    rcases runScript_stops h' k s with ⟨t, ht⟩ | ⟨a, -, ht⟩ <;> simp [runOp_runs hl, ht, andThen]

/-- Settles O51: the checks of the operands, in the order of R126. -/
theorem badOperandFaults : Obligations.BadOperandFaults := by
  refine ⟨fun h s p n v m => ⟨?_, ?_, fun hm => ?_, ?_, ?_, ?_, ?_⟩,
    fun _ _ h s hwf => runOp_ne_badOperand hwf h s⟩
  · exact runOp_bad (checkPin_pin s.cfg p ..)
  · exact runOp_bad (checkPin_pin s.cfg p ..)
  · refine runOp_bad ((checkPin_pin s.cfg p ..).trans ?_)
    rw [(modeOfCode_eq_none_iff m).mpr hm]
  · exact runOp_bad rfl
  · exact runOp_bad rfl
  · exact runOp_bad rfl
  · exact runOp_bad rfl

/-- The decoder calls an address reserved only if it is (30_encoding.md R59). -/
theorem decode_reservedRegister {f : Frame} {dev : DevAddr} {reg : Byte}
    (e : decode f = .error (.reservedRegister dev reg)) : 0x0A < reg := by
  unfold decode at e
  split at e
  · dsimp only at e
    split at e
    · split at e
      · next hr => cases e; exact (ofAddr_eq_none_iff _).mp hr
      · split at e <;> split at e <;> cases e
    · cases e
  · cases e
  · cases e

theorem exec_next (i : Instr) (s : State) : ∃ t, exec i s = .next t := by
  obtain ⟨t, -, ht, -⟩ := transactionFrame i s
  exact ⟨t, ht⟩

/-- A transaction stops for a reserved register address, or is refused as a frame that does not decode. -/
theorem transact_stops (f : Frame) (s : State) : Safe (transact f s) ∨
    (∃ reg : Byte, 0x0A < reg ∧ transact f s = .fault (.reservedRegister reg)) ∨
    ∃ e, decode f = .error e ∧ transact f s = .refused .notATransaction := by
  have hown : ∀ dev o, unlessForeign dev s o = o ∨ Safe (unlessForeign dev s o) := fun dev o =>
    (em (dev = devAddr s)).imp (unlessForeign_addressed · o) fun h => ⟨_, unlessForeign_foreign h o⟩
  cases hdec : decode f with
  | ok i => exact .inl (by rw [transact, hdec]; exact exec_next i s)
  | error e =>
    cases e with
    | foreignDevice dev => exact .inl ⟨_, by rw [transact, hdec]⟩
    | noHeader => exact .inr (.inr ⟨_, rfl, by rw [transact, hdec]⟩)
    | reservedRegister dev reg =>
      rw [transact, hdec]
      rcases hown dev (.fault (.reservedRegister reg)) with h | h
      · exact .inr (.inl ⟨reg, decode_reservedRegister hdec, h⟩)
      · exact .inl h
    | writeWithCount dev | readWithData dev =>
      rw [transact, hdec]
      rcases hown dev (.refused .notATransaction) with h | h
      · exact .inr (.inr ⟨_, rfl, h⟩)
      · exact .inl h

/-- A context's move stops for a reserved register address or an operand outside its type. -/
theorem contextMove_stops (d : Nat) (drv : Driver) (c : Nat) (ctx : Context) (s : State) :
    Safe (contextMove d drv c ctx s) ∨
    (∃ reg : Byte, 0x0A < reg ∧ contextMove d drv c ctx s = .fault (.reservedRegister reg)) ∨
    ∃ op : HostOp, op.WellFormed = false ∧ contextMove d drv c ctx s = .fault (.badOperand op) := by
  unfold contextMove
  split
  · next k hk =>
    rcases scriptStep_stops drv.side k s with ⟨t, ht⟩ | ⟨a, ha, ht⟩
    · exact .inl ⟨_, by rw [ht]; rfl⟩
    · exact .inr (.inl ⟨a, ha, by rw [ht]; rfl⟩)
  · split
    · exact .inl ⟨_, rfl⟩
    · next op ops hp =>
      dsimp only
      split
      · next hl =>
        refine .inr (.inr ⟨op, ?_, rfl⟩)
        exact Bool.eq_false_iff.mpr fun hwf => launch_ne_bad hwf _ _ hl
      · exact .inl ⟨_, rfl⟩
      · exact .inl ⟨_, rfl⟩

/-- Settles O41: by the turn, and for a host's turn by the operation begun or in progress. -/
theorem stopsOnlyByName : Obligations.StopsOnlyByName := by
  intro s
  cases hs : s.schedule with
  | nil => exact .inl ⟨s, stepRunsDecodedInstruction.2 s hs⟩
  | cons u ts =>
    rw [step_cons hs]
    cases u with
    | environ x => exact .inl ⟨_, rfl⟩
    | chipReset => exact .inl ⟨_, rfl⟩
    | hostRestart d => exact .inl ⟨_, rfl⟩
    | direct f =>
      rcases transact_stops f (s.setSchedule ts) with h | h | ⟨e, he, h⟩
      · exact .inl h
      · exact .inr (.inl h)
      · exact .inr (.inr (.inr ⟨f, ts, e, rfl, he, h⟩))
    | host d c =>
      rw [takeTurn, hostTurn]
      split
      · exact .inl ⟨_, rfl⟩
      · split
        · exact .inl ⟨_, rfl⟩
        · rcases contextMove_stops d _ c _ (s.setSchedule ts) with h | h | h
          · exact .inl h
          · exact .inr (.inl h)
          · exact .inr (.inr (.inl h))

end Sys2Proof.Machine
end

section
/-! A host operation on an undisturbed bus: its transactions one after another (40_register_access.md R93, R94). -/

namespace Sys2Proof.Machine

theorem Reaches.quiet {h : HostSide} {s : State} (hr : Reaches h s) : Quiet s := by
  rw [Quiet, State.busCond, hr.2]; rfl

/-- A transaction of one byte leaves the storage registers that its access leaves. -/
theorem afterOneByte_storage (r : Reg) (rep : Reply) (c : Chip) (n : Nat) (s : State) :
    SameStorage (afterOneByte r rep c n s).chip c := .refl c

theorem Reaches.oneByte {h : HostSide} {s : State} (hr : Reaches h s) (r : Reg) (rep : Reply) (c : Chip)
    (n : Nat) : Reaches h (afterOneByte r rep c n s) :=
  ⟨hr.1, congrArg List.tail hr.2⟩

theorem Reaches.write {h : HostSide} {s : State} (hr : Reaches h s) (r : Reg) (b : Byte) :
    Reaches h (afterWrite r b s) := hr.oneByte ..

theorem Reaches.read {h : HostSide} {s : State} (hr : Reaches h s) (r : Reg) :
    Reaches h (afterRead r s) := hr.oneByte ..

/-- The storage registers after a read of one byte. -/
theorem afterRead_storage (r : Reg) (s : State) : SameStorage (afterRead r s).chip s.chip :=
  (afterOneByte_storage ..).trans (chipAfterRead_storage ..)

/-- The state after the read and the write of setBit (R93). -/
def afterSetBit (r : Reg) (p : Pin) (v : Bool) (s : State) : State :=
  afterWrite r (withBit (memRead r s).1 p v) (afterRead r s)

theorem Reaches.setBit {h : HostSide} {s : State} (hr : Reaches h s) (r : Reg) (p : Pin) (v : Bool) :
    Reaches h (afterSetBit r p v s) := (hr.read r).write ..

/-- The stored byte of a plain storage register is one of the storage registers. -/
theorem plainStored_congr {r : Reg} {val : Chip → Byte} (hv : plainStored r = some val) {c d : Chip}
    (h : SameStorage c d) : val c = val d := by
  obtain ⟨hiodir, hipol, hgpinten, hdefval, hintcon, -, hgppu, holat⟩ := h
  cases r <;> cases hv <;> assumption

/-- A write of a plain storage register stores the byte. -/
theorem plainStored_chipAfterWrite {r : Reg} {val : Chip → Byte} (hv : plainStored r = some val) (cfg : Params)
    (b : Byte) (c : Chip) : val (chipAfterWrite r cfg b c) = b := by
  cases r <;> cases hv <;> rfl

/-- A write of a plain storage register leaves IOCON. -/
theorem chipAfterWrite_iocon {r : Reg} (hv : (plainStored r).isSome) (cfg : Params) (b : Byte) (c : Chip) :
    (chipAfterWrite r cfg b c).iocon = c.iocon := by
  cases r <;> simp_all [plainStored, chipAfterWrite]

/-- A write of a plain storage register leaves the others. -/
theorem plainStored_chipAfterWrite_other {r r' : Reg} {val' : Chip → Byte} (hv : (plainStored r).isSome)
    (hv' : plainStored r' = some val') (hne : r' ≠ r) (cfg : Params) (b : Byte) (c : Chip) :
    val' (chipAfterWrite r cfg b c) = val' c := by
  cases r' <;> cases hv' <;> cases r <;> simp_all [plainStored, chipAfterWrite]

section
variable {s : State} {c : Chip} (h : SameStorage s.chip c)
include h

/-- The storage registers after a write, from those before it. -/
theorem afterWrite_storage (r : Reg) (b : Byte) :
    SameStorage (afterWrite r b s).chip (chipAfterWrite r s.cfg b c) :=
  (afterOneByte_storage ..).trans (chipAfterWrite_congr h ..)

/-- The storage registers after a setBit of a plain storage register, from those before it. -/
theorem afterSetBit_plain_storage {r : Reg} {val : Chip → Byte} (hv : plainStored r = some val) (p : Pin)
    (v : Bool) : SameStorage (afterSetBit r p v s).chip (chipAfterWrite r s.cfg (withBit (val c) p v) c) := by
  have hx : (memRead r s).1 = val c := by rw [memRead_plain hv]; exact plainStored_congr hv h
  rw [afterSetBit, hx]
  exact afterWrite_storage ((afterRead_storage r s).trans h) ..

end

/-- The storage registers after a setBit. -/
theorem afterSetBit_storage (r : Reg) (p : Pin) (v : Bool) (s : State) :
    SameStorage (afterSetBit r p v s).chip (chipAfterWrite r s.cfg (withBit (memRead r s).1 p v) s.chip) :=
  afterWrite_storage (afterRead_storage r s) ..

section
variable {h : HostSide} {s : State} (hr : Reaches h s)
include hr

theorem exec_readForm_reaches (r : Reg) : exec (readForm h.addr 1 r) s = .next (afterRead r s) := by
  rw [exec_readForm, hr.1]; exact readTransaction_quiet hr.quiet r

theorem exec_writeForm_reaches (r : Reg) (b : Byte) :
    exec (writeForm h.addr [b] r) s = .next (afterWrite r b s) := by
  rw [exec_writeForm, hr.1]; exact writeTransaction_quiet hr.quiet r b

theorem busRead_reaches (r : Reg) : busRead h r.addr s = .next (afterRead r s, some (memRead r s).1) := by
  rw [busRead, transact_read, ← exec_readForm, exec_readForm_reaches hr]; rfl

theorem busWrite_reaches (r : Reg) (b : Byte) : busWrite h r.addr b s = .next (afterWrite r b s, true) := by
  rw [busWrite, transact_write, ← exec_writeForm, exec_writeForm_reaches hr]; rfl

theorem runScript_write (r : Reg) (b : Byte) (k : Script) :
    runScript h (.write r.addr b k) s = runScript h k (afterWrite r b s) := by
  rw [runScript, busWrite_reaches hr]; rfl

theorem runScript_rmw (r : Reg) (p : Pin) (v : Bool) (k : Script) :
    runScript h (.rmw r.addr p v k) s = runScript h k (afterSetBit r p v s) := by
  rw [runScript, busRead_reaches hr, andThen]
  dsimp only
  rw [busWrite_reaches (hr.read r)]
  rfl

theorem runScript_read (r : Reg) (u : ReadUse) :
    runScript h (.read r.addr u) s = .next (afterRead r s, useByte u (memRead r s).1) := by
  rw [runScript, busRead_reaches hr]; rfl

end

section
variable {op : HostOp} {h h' : HostSide} {s : State} (hr : Reaches h' s)
include hr

/-- An operation that is one setBit. -/
theorem runOp_rmw {r : Reg} {p : Pin} {v : Bool}
    (e : launch op s.cfg h = .runs h' (.rmw r.addr p v (.done .ok))) :
    runOp op h s = .next (afterSetBit r p v s, h', .ok) := by
  rw [runOp_runs e, runScript_rmw hr]; rfl

/-- An operation that is one write. -/
theorem runOp_write {r : Reg} {b : Byte} (e : launch op s.cfg h = .runs h' (.write r.addr b (.done .ok))) :
    runOp op h s = .next (afterWrite r b s, h', .ok) := by
  rw [runOp_runs e, runScript_write hr]; rfl

/-- An operation that is one read. -/
theorem runOp_read {r : Reg} {u : ReadUse} (e : launch op s.cfg h = .runs h' (.read r.addr u)) :
    runOp op h s = .next (afterRead r s, h', useByte u (memRead r s).1) := by
  rw [runOp_runs e, runScript_read hr]; rfl

end

/-- setBit of a pin within range is a read and a write (R93). -/
theorem launchSetBit_pin (cfg : Params) (h : HostSide) (a : Byte) (p : Pin) (v : Bool) :
    launchSetBit cfg h a (p : Nat) v = .runs h (.rmw a p v (.done .ok)) := checkPin_pin ..

/-- setDirection is setBit of IODIR (41_pin_operations.md R95). -/
theorem launch_setDirection (cfg : Params) (h : HostSide) (p : Pin) (d : Direction) :
    launch (.setDirection (p : Nat) (.val d)) cfg h =
      .runs h (.rmw Reg.iodir.addr p (decide (d = .input)) (.done .ok)) :=
  (checkPin_pin ..).trans (launchSetBit_pin ..)

/-- writePin is setBit of OLAT (R96). -/
theorem launch_writePin (cfg : Params) (h : HostSide) (p : Pin) (v : Bool) :
    launch (.writePin (p : Nat) (.val v)) cfg h = .runs h (.rmw Reg.olat.addr p v (.done .ok)) :=
  (checkPin_pin ..).trans (launchSetBit_pin ..)

/-- readPin is one read of GPIO (R97). -/
theorem launch_readPin (cfg : Params) (h : HostSide) (p : Pin) :
    launch (.readPin (p : Nat)) cfg h = .runs h (.read Reg.gpio.addr (.pin p)) := checkPin_pin ..

/-- setPullUp on an undisturbed bus is a setBit of GPPU (R98). -/
theorem runOp_setPullUp {h : HostSide} {s : State} (hr : Reaches h s) (p : Pin) (v : Bool) :
    runOp (.setPullUp (p : Nat) v) h s = .next (afterSetBit .gppu p v s, h, .ok) :=
  runOp_rmw hr (launchSetBit_pin ..)

/-- The stored byte of a plain storage register after a setBit of it. -/
theorem plainStored_afterSetBit {r : Reg} {val : Chip → Byte} (hv : plainStored r = some val) (p : Pin) (v : Bool)
    (s : State) : val (afterSetBit r p v s).chip = withBit (val s.chip) p v :=
  (plainStored_congr hv (afterSetBit_plain_storage (.refl _) hv p v)).trans (plainStored_chipAfterWrite hv ..)

theorem withBit_withBit (x : Byte) (p : Pin) (v : Bool) : withBit (withBit x p v) p v = withBit x p v := by
  conv_rhs => rw [← withBit_self (withBit x p v) p, bitOf_withBit, if_pos rfl]

/-- Settles O46: setBit of IODIR. -/
theorem setDirectionReadsBack : Obligations.SetDirectionReadsBack := by
  intro h s p d hr
  obtain ⟨v, hv⟩ : ∃ v, v = decide (d = .input) := ⟨_, rfl⟩
  have hop : ∀ u, Reaches h u →
      runOp (.setDirection p (.val d)) h u = .next (afterSetBit .iodir p v u, h, .ok) := fun u hu =>
    runOp_rmw hu (hv ▸ launch_setDirection ..)
  have hiodir : ∀ u, (afterSetBit .iodir p v u).chip.iodir = withBit u.chip.iodir p v :=
    plainStored_afterSetBit (r := .iodir) rfl p v
  refine ⟨afterRead .iodir s, afterSetBit .iodir p v s, withBit s.chip.iodir p v, exec_readForm_reaches hr .iodir,
    fun q => hv ▸ bitOf_withBit .., exec_writeForm_reaches (hr.read .iodir) .iodir _, hop s hr, hiodir s,
    afterSetBit .iodir p v (afterSetBit .iodir p v s), hop _ (hr.setBit ..), ?_⟩
  rw [hiodir, hiodir, withBit_withBit]

/-- Settles O47: setBit of OLAT, GPPU and IPOL, and a write of GPIO, which goes to OLAT. -/
theorem pinOperationsWriteTheirRegister : Obligations.PinOperationsWriteTheirRegister := by
  intro h s p v b hr
  refine ⟨⟨_, runOp_rmw hr (launch_writePin ..), ?_⟩, ⟨_, runOp_setPullUp hr p v, ?_⟩,
    ⟨_, runOp_rmw (r := .ipol) hr (launchSetBit_pin ..), ?_⟩, ⟨_, runOp_write (r := .gpio) hr rfl, ?_⟩⟩
  · exact afterSetBit_plain_storage (r := .olat) (.refl _) rfl p v
  · exact afterSetBit_plain_storage (r := .gppu) (.refl _) rfl p v
  · exact afterSetBit_plain_storage (r := .ipol) (.refl _) rfl p v
  · exact afterWrite_storage (.refl _) .gpio b

/-- Settles O48: the two bits are set in either order. -/
theorem pullUpOrderIndependent : Obligations.PullUpOrderIndependent := by
  intro h s hr hz
  have hgppu : ∀ (p : Pin) (u : State), (afterSetBit .gppu p true u).chip.gppu = withBit u.chip.gppu p true :=
    fun p => plainStored_afterSetBit (r := .gppu) rfl p true
  refine ⟨_, _, _, _, runOp_setPullUp hr 3 true, runOp_setPullUp (hr.setBit ..) 5 true, ?_,
    runOp_setPullUp hr 5 true, runOp_setPullUp (hr.setBit ..) 3 true, ?_⟩
  · rw [hgppu, hgppu, hz]; decide
  · rw [hgppu, hgppu, hz]; decide

/-- Settles O49: one read of GPIO each. -/
theorem pinReadsSampleLivePins : Obligations.PinReadsSampleLivePins := by
  intro h s p hr
  exact ⟨afterRead .gpio s, sample s, exec_readForm_reaches hr .gpio, bitOf_sample s,
    runOp_read (r := .gpio) hr (launch_readPin ..), runOp_read (r := .gpio) (u := .byte) hr rfl⟩

end Sys2Proof.Machine
end

section
/-! setBit at every register address (40_register_access.md R93, R142, R146). -/

namespace Sys2Proof.Machine

/-- setBit of a plain storage register: the byte read, its bits after, and what stays. -/
theorem setBit_plain {r : Reg} {val : Chip → Byte} (hv : plainStored r = some val) (p : Pin) (v : Bool)
    (s : State) : (memRead r s).1 = val s.chip ∧
      (∀ q, bitOf (val (afterSetBit r p v s).chip) q = if q = p then v else bitOf (val s.chip) q) ∧
      (afterSetBit r p v s).chip.iocon = s.chip.iocon ∧
      ∀ r' val', r' ≠ r → plainStored r' = some val' → val' (afterSetBit r p v s).chip = val' s.chip := by
  have hsome : (plainStored r).isSome := by rw [hv]; rfl
  have hst := afterSetBit_storage r p v s
  refine ⟨by rw [memRead_plain hv], fun q => ?_, ?_, fun r' val' hne hv' => ?_⟩
  · rw [plainStored_afterSetBit hv, bitOf_withBit]
  · rw [hst.iocon_eq, chipAfterWrite_iocon hsome]
  · rw [plainStored_congr hv' hst, plainStored_chipAfterWrite_other hsome hv' hne]

/-- A read of a reserved address is the fault ReservedRegister (30_encoding.md R59). -/
theorem busRead_reserved {h : HostSide} {s : State} (haddr : h.addr = devAddr s) {a : Byte} (ha : 0x0A < a) :
    busRead h a s = .fault (.reservedRegister a) := by
  have htr : transact (.read h.addr a 1) s = .fault (.reservedRegister a) :=
    haddr ▸ transact_reserved ha s true [] 1
  rw [busRead, htr]; rfl

theorem launch_setBit (cfg : Params) (h : HostSide) (a : Byte) (p : Pin) (v : Bool) :
    launch (.setBit a (p : Nat) v) cfg h = .runs h (.rmw a p v (.done .ok)) := launchSetBit_pin ..

/-- Settles O45: the read, the write, and what each register makes of them. -/
theorem setBitChangesOneBit : Obligations.SetBitChangesOneBit := by
  intro h s p v hr
  constructor
  · intro r
    refine ⟨afterRead r s, afterSetBit r p v s, (memRead r s).1, exec_readForm_reaches hr r, rfl,
      exec_writeForm_reaches (hr.read r) r _, runOp_rmw hr (launch_setBit ..), rfl,
      fun val hv => setBit_plain hv p v s, ?_, ?_, ?_, ?_, ?_⟩
    · rintro rfl
      exact ⟨rfl, afterSetBit_storage .iocon p v s⟩
    · rintro (rfl | rfl)
      · exact ⟨rfl, afterSetBit_storage .intf p v s⟩
      · exact ⟨rfl, afterSetBit_storage .intcap p v s⟩
    · rintro rfl
      exact ⟨rfl, rfl⟩
    · rintro rfl
      exact ⟨rfl, rfl⟩
    · rintro rfl
      exact ⟨bitOf_sample s, rfl, afterSetBit_storage .gpio p v s⟩
  · intro a ha
    rw [runOp_runs (launch_setBit ..), runScript, busRead_reserved hr.1 ha]
    rfl

theorem failedStart_sameHosts (r : Reg) (f : BusFailure) (k : Nat) (s : State) :
    SameHosts s (failedStart r f k s) := by
  unfold failedStart; split <;> exact ⟨rfl, rfl, rfl, rfl⟩

/-- A read that fails gives no byte, delivers BusError and changes no storage register (R67). -/
theorem busRead_fails {h : HostSide} {s : State} (haddr : h.addr = devAddr s) {f : BusFailure}
    {gaps : List (List Ext)} {rest : List BusCond} (hbus : s.busEnv = ⟨some f, gaps⟩ :: rest) (r : Reg) :
    ∃ t, busRead h r.addr s = .next (t, none) ∧ t.busEnv = rest ∧ t.replies = .busError :: s.replies ∧
      SameStorage t.chip s.chip := by
  have htr := readTransaction_fails (busCond_of_busEnv hbus) r 1
  have hhosts := (failedStart_sameHosts r f (min f.after 1) s.takeBusCond).trans
    (readLoop_sameHosts r (min f.after 1) gaps _)
  refine ⟨_, ?_, ?_, congrArg _ hhosts.replies, readTransaction_storage htr⟩
  · rw [busRead, transact_read, haddr, htr]; rfl
  · exact hhosts.busEnv.trans (by rw [State.takeBusCond_busEnv, hbus]; rfl)

/-- Settles O58: the read fails, and no write follows. -/
theorem failedReadStopsSetBit : Obligations.FailedReadStopsSetBit := by
  intro h s r p v f gaps rest haddr hbus
  obtain ⟨t, hread, hrest⟩ := busRead_fails haddr hbus r
  refine ⟨t, ?_, hrest⟩
  rw [runOp_runs (launch_setBit ..), runScript, hread]
  rfl

end Sys2Proof.Machine
end

section
/-! The interrupt operations on an undisturbed bus (43_interrupt_operations.md). -/

namespace Sys2Proof.Machine

theorem modeOfCode_modeCode (m : TrigMode) : modeOfCode (modeCode m) = some m := by cases m <;> rfl

/-- enableInterrupt of a mode other than NONE (R113). -/
theorem launch_enableInterrupt (cfg : Params) (h : HostSide) (p : Pin) {m : TrigMode} (hm : m ≠ .none) :
    launch (.enableInterrupt (p : Nat) (modeCode m)) cfg h =
      .runs { h with mode := h.mode.set p m } (enableScript p m) := by
  refine (checkPin_pin ..).trans ?_
  rw [modeOfCode_modeCode]
  exact if_neg hm

/-- disableInterrupt (R114). -/
theorem launch_disableInterrupt (cfg : Params) (h : HostSide) (p : Pin) :
    launch (.disableInterrupt (p : Nat)) cfg h =
      .runs { h with mode := h.mode.set p .none } (.rmw Reg.gpinten.addr p false (.done .ok)) :=
  checkPin_pin ..

/-- enableInterrupt with NONE is disableInterrupt (R113). -/
theorem launch_enableInterrupt_none (cfg : Params) (h : HostSide) (p : Pin) :
    launch (.enableInterrupt (p : Nat) 0) cfg h = launch (.disableInterrupt (p : Nat)) cfg h :=
  checkPin_pin ..

/-- The state after the transactions of enableInterrupt. -/
def afterEnable (p : Pin) (m : TrigMode) (s : State) : State :=
  let s' := afterSetBit .intcon p (isLevelMode m) (afterSetBit .gpinten p true s)
  if isLevelMode m then afterSetBit .defval p (decide (m = .levelLow)) s' else s'

theorem runScript_enableScript {h : HostSide} {s : State} (hr : Reaches h s) (p : Pin) (m : TrigMode) :
    runScript h (enableScript p m) s = .next (afterEnable p m s, .ok) := by
  have hr' := fun lv => (hr.setBit .gpinten p true).setBit .intcon p lv
  rw [enableScript, runScript_rmw hr, runScript_rmw (hr.setBit ..), afterEnable]
  cases isLevelMode m
  · rfl
  · exact runScript_rmw (hr' true) .defval p _ (.done .ok)

/-- Settles O52: setBit of GPINTEN, of INTCON, and for a level mode of DEFVAL. -/
theorem enableInterruptConfiguresPin : Obligations.EnableInterruptConfiguresPin := by
  intro h s p m hr hm
  refine ⟨afterEnable p m s, ?_, ?_⟩
  · have hr' : Reaches { h with mode := h.mode.set p m } s := hr
    rw [runOp_runs (launch_enableInterrupt _ _ _ hm), runScript_enableScript hr']
    rfl
  · have hboth := afterSetBit_plain_storage (r := .intcon)
      (afterSetBit_plain_storage (r := .gpinten) (.refl s.chip) rfl p true) rfl p (isLevelMode m)
    have hall := afterSetBit_plain_storage (r := .defval) hboth rfl p (decide (m = .levelLow))
    cases m with
    | none => exact absurd rfl hm
    | rising | falling | change => exact hboth
    | levelHigh | levelLow => exact hall

/-- A pending flag of `s` that is still pending in `u` is still pending where those of `u` are. -/
theorem FlagsKept.trans {s u t : State} (h : FlagsKept s u) (k : FlagsKept u t) : FlagsKept s t := by
  obtain ⟨hcfg, hflags, hcap, hexact⟩ := h
  obtain ⟨kcfg, kflags, kcap, kexact⟩ := k
  refine ⟨kcfg.trans hcfg, ?_, kcap.trans hcap, fun hacc => (kexact (hcfg ▸ hacc)).trans (hexact hacc)⟩
  calc t.chip.intf &&& s.chip.intf
      = (t.chip.intf &&& u.chip.intf) &&& s.chip.intf := by rw [BitVec.and_assoc, hflags]
    _ = s.chip.intf := by rw [kflags, hflags]

/-- A read of one byte that does not clear keeps the pending flags. -/
theorem afterRead_flagsKept {s : State} (hs : s.chip.intf ≠ 0x00) (hq : Quiet s) {r : Reg}
    (hr : clearsFlags s.cfg r = false) : FlagsKept s (afterRead r s) := by
  refine exec_flagsKept hs ?_ ((exec_readForm ..).trans (readTransaction_quiet hq r))
  intro dev n q hi _
  obtain ⟨-, rfl, rfl⟩ := readForm_inj.mp hi
  have hq : s.busCond = .quiet := hq
  simp [accessesMade, hq, BusCond.quiet, readOrder, hr]

/-- A write of one byte keeps the pending flags. -/
theorem afterWrite_flagsKept {s : State} (hs : s.chip.intf ≠ 0x00) (hq : Quiet s) (r : Reg) (b : Byte) :
    FlagsKept s (afterWrite r b s) :=
  exec_flagsKept hs (fun _ _ _ hi => absurd hi writeForm_ne_readForm)
    ((exec_writeForm ..).trans (writeTransaction_quiet hq r b))

/-- Settles O53: setBit of GPINTEN, whose transactions clear nothing. -/
theorem disableInterruptClearsEnable : Obligations.DisableInterruptClearsEnable := by
  intro h s p hr
  have hr' : Reaches { h with mode := h.mode.set p .none } s := hr
  refine ⟨afterSetBit .gpinten p false s, runOp_rmw hr' (launch_disableInterrupt ..),
    runOp_rmw hr' ((launch_enableInterrupt_none ..).trans (launch_disableInterrupt ..)),
    afterSetBit_plain_storage (r := .gpinten) (.refl _) rfl p false, fun hs => ?_⟩
  have hread : FlagsKept s (afterRead .gpinten s) := afterRead_flagsKept hs hr.quiet rfl
  obtain ⟨-, hflags, -, -⟩ := hread.trans
    (afterWrite_flagsKept (hread.intf_ne_zero hs) (hr.read .gpinten).quiet .gpinten _)
  exact hflags

/-- The two reads of evaluatePendingInterrupts and its qualification (R116). -/
theorem runOp_evaluatePending {h : HostSide} {s : State} (hr : Reaches h s) :
    runOp .evaluatePendingInterrupts h s = .next (afterRead .intcap (afterRead .intf s), h,
      .byte (qualifiedMask h.mode s.chip.intf (afterRead .intf s).chip.intcap)) := by
  rw [runOp_runs (k := .readPending) (h' := h) rfl, runScript, busRead_reaches hr .intf, andThen]
  dsimp only
  rw [busRead_reaches (hr.read .intf) .intcap]
  rfl

/-- Settles O54: INTF is read first and keeps the capture for the read of INTCAP that follows. -/
theorem evaluatePendingReportsQualified : Obligations.EvaluatePendingReportsQualified := by
  intro h s hr
  refine ⟨_, _, runOp_evaluatePending hr, (afterRead_storage ..).trans (afterRead_storage ..), fun p hp => ?_,
    fun hs p => ?_⟩
  · rw [qualifiedMask, bitOf_packPins, Bool.and_eq_true] at hp
    refine ⟨hp.1, fun hnone => ?_⟩
    have hq := hp.2
    rw [hnone, qualify_none] at hq
    cases hq
  · obtain ⟨-, -, hcap, -⟩ := afterRead_flagsKept hs hr.quiet (r := .intf) rfl
    rw [qualifiedMask, bitOf_packPins, hcap]
    cases h.mode[p] <;> rfl

end Sys2Proof.Machine
end

section
/-! The configuration fields of IOCON, and begin. -/

namespace Sys2Proof.Machine

/-- A bit of IOCON stands only where it is implemented (10_state.md R23). -/
theorem bitOf_iocon_masked {s : State} (h : RegInv s) (p : Pin) :
    (bitOf s.chip.iocon p && bitOf s.cfg.implMask p) = bitOf s.chip.iocon p := by
  cases hp : bitOf s.cfg.implMask p
  · rw [bitOf_iocon_unimplemented h hp]; rfl
  · rw [Bool.and_true]

/-- Settles O55: setBit of IOCON at the field's position. -/
theorem configFieldIsolation : Obligations.ConfigFieldIsolation := by
  intro h s f v hr hinv himpl
  have hst := afterSetBit_storage .iocon (fieldBit s.cfg f) v s
  refine ⟨afterSetBit .iocon (fieldBit s.cfg f) v s, runOp_rmw (r := .iocon) hr rfl, fun q => ?_, ?_, ?_, ?_⟩
  · rw [hst.iocon_eq]
    show bitOf (withBit s.chip.iocon (fieldBit s.cfg f) v &&& s.cfg.implMask) q = _
    rw [bitOf_and, bitOf_withBit]
    split
    · next hq => rw [hq, himpl, Bool.and_true]
    · exact bitOf_iocon_masked hinv q
  · obtain ⟨hiodir, hipol, hgpinten, hdefval, hintcon, -, hgppu, holat⟩ := hst
    exact ⟨hiodir, hipol, hgpinten, hdefval, hintcon, rfl, hgppu, holat⟩
  · rintro rfl
    cases v <;> exact runOp_rmw (r := .iocon) hr rfl
  · rintro rfl
    cases v <;> exact runOp_rmw (r := .iocon) hr rfl

/-- Settles O56: each getter is one read of IOCON. -/
theorem interruptGettersReportStoredBits : Obligations.InterruptGettersReportStoredBits := by
  intro h s hr
  exact ⟨afterRead .iocon s, exec_readForm_reaches hr .iocon,
    runOp_read (r := .iocon) (u := .polarity s.cfg.bitIntpol) hr rfl,
    runOp_read (r := .iocon) (u := .drive s.cfg.bitOdr) hr rfl,
    fun f => runOp_read (r := .iocon) (u := .field (fieldBit s.cfg f)) hr rfl⟩

/-- A script that writes bytes to registers, one after another. -/
def writesScript : List (Reg × Byte) → Script
  | [] => .done .ok
  | (r, b) :: ws => .write r.addr b (writesScript ws)

/-- The state after those writes on an undisturbed bus. -/
def afterWrites (ws : List (Reg × Byte)) (s : State) : State :=
  ws.foldl (fun t w => afterWrite w.1 w.2 t) s

theorem runScript_writes {h : HostSide} (ws : List (Reg × Byte)) {s : State} (hr : Reaches h s) :
    runScript h (writesScript ws) s = .next (afterWrites ws s, .ok) := by
  induction ws generalizing s with
  | nil => rfl
  | cons w ws ih => rw [writesScript, runScript_write hr]; exact ih (hr.write w.1 w.2)

/-- The writes of begin (70_reset_and_hazards.md R139). -/
def beginWrites : List (Reg × Byte) :=
  [(.iodir, 0xFF), (.ipol, 0x00), (.gpinten, 0x00), (.defval, 0x00), (.intcon, 0x00), (.gppu, 0x00),
    (.olat, 0x00)]

theorem runScript_begin {h : HostSide} {s : State} (hr : Reaches h s) :
    runScript h beginScript s = .next (afterWrites beginWrites s, .ok) := runScript_writes beginWrites hr

theorem afterBegin_storage (s : State) : SameStorage (afterWrites beginWrites s).chip { s.chip with
    iodir := 0xFF, ipol := 0x00, gpinten := 0x00, defval := 0x00, intcon := 0x00, gppu := 0x00, olat := 0x00 } :=
  afterWrite_storage (afterWrite_storage (afterWrite_storage (afterWrite_storage (afterWrite_storage
    (afterWrite_storage (afterWrite_storage (.refl s.chip) .iodir 0xFF) .ipol 0x00) .gpinten 0x00) .defval 0x00)
    .intcon 0x00) .gppu 0x00) .olat 0x00

/-- A write to another device fails and changes nothing (30_encoding.md R58). -/
theorem busWrite_foreign {h : HostSide} {s : State} (ha : h.addr ≠ devAddr s) (r : Reg) (b : Byte) :
    busWrite h r.addr b s = .next (s.pushReply .busError, false) := by
  rw [busWrite, transact_write, writeTransaction_foreign ha]; rfl

/-- A strap value resolves to an address with the clamp of R139. -/
theorem resolveAddr_eq (strap : Nat) : resolveAddr strap = 0x20 ||| BitVec.ofNat 7 (min strap 7) := by
  rw [resolveAddr]
  congr 2
  split <;> omega

/-- Settles O57: seven writes, or one that the chip does not acknowledge. -/
theorem beginInitialisesChip : Obligations.BeginInitialisesChip := by
  intro h s strap hbus
  have hlaunch : launch (.beginOp strap) s.cfg h = .runs ⟨_, _⟩ beginScript :=
    congrArg (fun a => Launch.runs ⟨a, _⟩ beginScript) (resolveAddr_eq strap)
  refine ⟨fun ha => ⟨afterWrites beginWrites s, ?_, afterBegin_storage s⟩,
    fun ha => ⟨s.pushReply .busError, ?_, rfl⟩⟩
  · rw [runOp_runs hlaunch, runScript_begin ⟨ha, hbus⟩]; rfl
  · rw [runOp_runs hlaunch, beginScript, runScript, busWrite_foreign]
    · rfl
    · exact ha

end Sys2Proof.Machine
end

section
/-! The moves of a context, each a turn of the schedule (20_memory.md §4, log entry 12). -/

namespace Sys2Proof.Machine

section
variable (ds : List Driver) (ts : List Turn) (h : HostSide) (s : State)

theorem busRead_withAgents (a : Byte) :
    busRead h a (s.withAgents ds ts) = andThen (busRead h a s) fun t => .next (t.1.withAgents ds ts, t.2) := by
  rw [busRead, busRead, transact_withAgents, andThen_assoc, andThen_assoc]; rfl

theorem busWrite_withAgents (a b : Byte) :
    busWrite h a b (s.withAgents ds ts) =
      andThen (busWrite h a b s) fun t => .next (t.1.withAgents ds ts, t.2) := by
  rw [busWrite, busWrite, transact_withAgents, andThen_assoc, andThen_assoc]; rfl

/-- A move is blind to the host drivers and the schedule. -/
theorem scriptStep_withAgents (k : Script) :
    scriptStep h k (s.withAgents ds ts) =
      andThen (scriptStep h k s) fun t => .next (t.1.withAgents ds ts, t.2) := by
  cases k with
  | done _ | qualify _ _ => rfl
  | write a b k => rw [scriptStep, scriptStep, busWrite_withAgents, andThen_assoc, andThen_assoc]; rfl
  | rmw _ _ _ _ | read _ _ | readPending | readCaptured _ =>
    rw [scriptStep, scriptStep, busRead_withAgents, andThen_assoc, andThen_assoc]; rfl

end

/-- The turn of a context whose operation is in progress. -/
theorem hostTurn_running {s : State} {d c : Nat} {drv : Driver} {ctx : Context} {k : Script}
    (hd : s.drivers[d]? = some drv) (hc : drv.contexts[c]? = some ctx) (hk : ctx.running = some k) :
    hostTurn d c s = andThen (scriptStep drv.side k s) fun t =>
      .next (t.1.setDriver d (drv.setContext c (settle ctx t.2))) := by
  simp only [hostTurn, hd, hc, contextMove, hk]

/-- The turn of a context about to begin its next operation. -/
theorem hostTurn_idle {s : State} {d c : Nat} {drv : Driver} {ctx : Context} {op : HostOp} {ops : List HostOp}
    (hd : s.drivers[d]? = some drv) (hc : drv.contexts[c]? = some ctx) (hk : ctx.running = none)
    (hp : ctx.program = op :: ops) : hostTurn d c s =
      match launch op s.cfg drv.side with
      | .bad => .fault (.badOperand op)
      | .returns r => .next (s.setDriver d (drv.setContext c (settle ⟨ops, none, ctx.results⟩ (.done r))))
      | .runs h k => .next (s.setDriver d ⟨h, drv.contexts.set c (settle ⟨ops, none, ctx.results⟩ k)⟩) := by
  simp only [hostTurn, hd, hc, contextMove, hk, hp]
  cases launch op s.cfg drv.side <;> rfl

/-- One move of an operation in progress, as a step. -/
theorem step_running {s s' : State} {ds : List Driver} {ts : List Turn} {d c : Nat} {drv : Driver}
    {ctx : Context} {k k' : Script} (hd : ds[d]? = some drv) (hc : drv.contexts[c]? = some ctx)
    (hk : ctx.running = some k) (e : scriptStep drv.side k s = .next (s', k')) :
    step (s.withAgents ds (.host d c :: ts)) =
      .next (s'.withAgents (ds.set d (drv.setContext c (settle ctx k'))) ts) := by
  have hstate : (s.withAgents ds (.host d c :: ts)).setSchedule ts = s.withAgents ds ts := rfl
  rw [step_cons (s := s.withAgents ds (.host d c :: ts)) rfl, hstate, takeTurn,
    hostTurn_running (s := s.withAgents ds ts) hd hc hk, scriptStep_withAgents, e]
  rfl

/-- A run takes a step and goes on. -/
theorem run_succ {s s' : State} (e : step s = .next s') (n : Nat) :
    Sys2Proof.core.run (n + 1) s = Sys2Proof.core.run n s' := by
  have hstep : Sys2Proof.core.step s = .next s' := e
  simp only [Host.Core.run, hstep]

theorem settle_running {k : Script} (hk : ∀ r, k ≠ .done r) (ctx : Context) :
    settle ctx k = { ctx with running := some k } := by
  cases k with
  | done r => exact absurd rfl (hk r)
  | write _ _ _ | rmw _ _ _ _ | read _ _ | readPending | readCaptured _ | qualify _ _ => rfl

/-- What a move leaves of a context does not depend on what was in progress. -/
theorem settle_setRunning (ctx : Context) (o : Option Script) (k : Script) :
    settle { ctx with running := o } k = settle ctx k := by
  cases k <;> rfl

@[simp] theorem Driver.setContext_setContext (drv : Driver) (c : Nat) (x y : Context) :
    (drv.setContext c x).setContext c y = drv.setContext c y :=
  congrArg (Driver.mk drv.side) (List.set_set ..)

/-- The context once its operation has returned `r`. -/
def Context.returned (ctx : Context) (r : OpResult) : Context :=
  { ctx with running := none, results := r :: ctx.results }

/-- The moves left of an operation, uninterrupted, are the operation carried to its end. -/
theorem run_moves {d c : Nat} {ds : List Driver} {drv : Driver} (hd : d < ds.length)
    (hc : c < drv.contexts.length) (k : Script) (ctx : Context) {s t : State} {r : OpResult}
    (e : runScript drv.side k s = .next (t, r)) :
    ∃ n, Sys2Proof.core.run n
        (s.withAgents (ds.set d (drv.setContext c (settle ctx k))) (List.replicate n (.host d c))) =
      .next (t.withAgents (ds.set d (drv.setContext c (ctx.returned r))) []) := by
  by_cases hk : ∃ r, k = .done r
  · obtain ⟨r, rfl⟩ := hk
    cases e
    exact ⟨0, rfl⟩
  · have hk : ∀ r, k ≠ .done r := fun r e => hk ⟨r, e⟩
    rw [runScript_eq_scriptStep] at e
    obtain ⟨⟨s', k'⟩, hstep, hrest⟩ := andThen_next e
    have hless := scriptStep_movesLeft hstep hk
    obtain ⟨n, hn⟩ := run_moves hd hc k' ctx hrest
    refine ⟨n + 1, ?_⟩
    have hmove := step_running (ds := ds.set d (drv.setContext c (settle ctx k)))
      (ts := List.replicate n (.host d c)) (List.getElem?_set_self hd) (List.getElem?_set_self hc)
      (by rw [settle_running hk]) hstep
    rw [List.replicate_succ, run_succ hmove, List.set_set, Driver.setContext_setContext, settle_running hk,
      settle_setRunning]
    exact hn
termination_by k.movesLeft

/-- A step whose turn is a host's, with the schedule in place. -/
theorem step_hostTurn (s : State) (d c n : Nat) :
    step { s with schedule := List.replicate (n + 1) (.host d c) } =
      hostTurn d c (s.setSchedule (List.replicate n (.host d c))) :=
  step_cons (s := { s with schedule := List.replicate (n + 1) (.host d c) }) rfl

/-- The moves of an operation in progress (log entry 12). -/
theorem run_running {k : Script} {s t : State} {r : OpResult} {d c : Nat} {drv : Driver} {ctx : Context}
    (hd : s.drivers[d]? = some drv) (hc : drv.contexts[c]? = some ctx) (hk : ctx.running = some k)
    (e : runScript drv.side k s = .next (t, r)) :
    ∃ n, Sys2Proof.core.run n { s with schedule := List.replicate n (.host d c) } =
      .next (t.withAgents (s.drivers.set d (drv.setContext c (ctx.returned r))) []) := by
  obtain ⟨hlt, -⟩ := List.getElem?_eq_some_iff.mp hd
  obtain ⟨hlt', -⟩ := List.getElem?_eq_some_iff.mp hc
  rw [runScript_eq_scriptStep] at e
  obtain ⟨⟨s', k'⟩, hstep, hrest⟩ := andThen_next e
  obtain ⟨n, hn⟩ := run_moves hlt hlt' k' ctx hrest
  have hmove := step_running (ts := List.replicate n (.host d c)) hd hc hk hstep
  exact ⟨n + 1, (run_succ hmove n).trans hn⟩

section
variable {op : HostOp} {ops : List HostOp} {s : State} {d c : Nat} {drv : Driver} {ctx : Context}
  (hd : s.drivers[d]? = some drv) (hc : drv.contexts[c]? = some ctx) (hk : ctx.running = none)
  (hp : ctx.program = op :: ops)
include hd hc hk hp

/-- The first move of an operation writes the driver's side as `launch` says (log entry 12). -/
theorem hostTurn_begins {h : HostSide} {k : Script} (hl : launch op s.cfg drv.side = .runs h k) (ts : List Turn) :
    hostTurn d c (s.setSchedule ts) = .next
      (s.withAgents (s.drivers.set d ⟨h, drv.contexts.set c (settle ⟨ops, none, ctx.results⟩ k)⟩) ts) := by
  have hl' : launch op (s.setSchedule ts).cfg drv.side = .runs h k := hl
  rw [hostTurn_idle (s := s.setSchedule ts) hd hc hk hp, hl']
  rfl

/-- An operation that returns at once takes one move. -/
theorem hostTurn_returns {r : OpResult} (hl : launch op s.cfg drv.side = .returns r) (ts : List Turn) :
    hostTurn d c (s.setSchedule ts) = .next
      (s.withAgents (s.drivers.set d ⟨drv.side, drv.contexts.set c ⟨ops, none, r :: ctx.results⟩⟩) ts) := by
  have hl' : launch op (s.setSchedule ts).cfg drv.side = .returns r := hl
  rw [hostTurn_idle (s := s.setSchedule ts) hd hc hk hp, hl']
  rfl

/-- The first move of an operation with an operand outside its type is the fault BadOperand. -/
theorem hostTurn_bad (hl : launch op s.cfg drv.side = .bad) (ts : List Turn) :
    hostTurn d c (s.setSchedule ts) = .fault (.badOperand op) := by
  have hl' : launch op (s.setSchedule ts).cfg drv.side = .bad := hl
  rw [hostTurn_idle (s := s.setSchedule ts) hd hc hk hp, hl']

/-- The moves of an operation not yet begun (log entry 12). -/
theorem run_program {t : State} {h : HostSide} {r : OpResult} (e : runOp op drv.side s = .next (t, h, r)) :
    ∃ n, Sys2Proof.core.run n { s with schedule := List.replicate n (.host d c) } =
      .next (t.withAgents (s.drivers.set d ⟨h, drv.contexts.set c ⟨ops, none, r :: ctx.results⟩⟩) []) := by
  obtain ⟨hlt, -⟩ := List.getElem?_eq_some_iff.mp hd
  obtain ⟨hlt', -⟩ := List.getElem?_eq_some_iff.mp hc
  cases hl : launch op s.cfg drv.side with
  | bad => rw [runOp_bad hl] at e; cases e
  | returns r' =>
    rw [runOp_returns hl] at e
    cases e
    exact ⟨1, run_succ ((step_hostTurn s d c 0).trans (hostTurn_returns hd hc hk hp hl _)) 0⟩
  | runs h' k =>
    rw [runOp_runs hl] at e
    obtain ⟨⟨t', r'⟩, hrun, hend⟩ := andThen_next e
    cases hend
    obtain ⟨n, hn⟩ := run_moves (drv := ⟨h, drv.contexts⟩) hlt hlt' k ⟨ops, none, ctx.results⟩ hrun
    exact ⟨n + 1, (run_succ ((step_hostTurn s d c n).trans (hostTurn_begins hd hc hk hp hl _)) n).trans hn⟩

end

/-- Settles O60: an operation in progress moves on, and one not yet begun begins with its launch. -/
theorem uninterruptedMovesAreRunScript : Obligations.UninterruptedMovesAreRunScript := by
  refine ⟨fun k s t r d c drv ctx hd hc hk e => run_running hd hc hk e,
    fun op ops s d c drv ctx hd hc hk hp => ⟨fun h k ts hl hs => ?_, fun ts hl hs => ?_,
      fun h t r e => run_program hd hc hk hp e⟩⟩
  · exact (step_cons hs).trans (hostTurn_begins hd hc hk hp hl ts)
  · exact (step_cons hs).trans (hostTurn_bad hd hc hk hp hl ts)

end Sys2Proof.Machine
end

section
/-! A write between the two transactions of a setBit (70_reset_and_hazards.md R141). -/

namespace Sys2Proof.Machine

/-- The turns that are not this context's see the same transactions whatever its operation has come to. -/
theorem turnFrame_setContext {s u : State} {w : Turn} {d c : Nat} {drv : Driver} {ctx : Context}
    (hd : s.drivers[d]? = some drv) (hu : u.drivers = s.drivers.set d (drv.setContext c ctx))
    (hw : w ≠ .host d c) : turnFrame w u = turnFrame w s := by
  cases w with
  | direct f => rfl
  | environ x => rfl
  | chipReset => rfl
  | hostRestart d' => rfl
  | host d' c' =>
    obtain ⟨hlt, -⟩ := List.getElem?_eq_some_iff.mp hd
    by_cases hdd : d' = d
    · subst hdd
      have hcc : c' ≠ c := fun h => hw (by rw [h])
      simp only [turnFrame, hu, hd, List.getElem?_set_self hlt, Option.bind_some, Driver.setContext,
        List.getElem?_set_ne hcc.symm]
    · simp [turnFrame, hu, List.getElem?_set_ne (Ne.symm hdd)]

/-- Context `c` of driver `d` and that driver's side are `ctx` and `h`. -/
def ContextIs (ds : List Driver) (d c : Nat) (h : HostSide) (ctx : Context) : Prop :=
  ∃ drv, ds[d]? = some drv ∧ drv.side = h ∧ drv.contexts[c]? = some ctx

/-- A move of another context leaves this one. -/
theorem ContextIs.set {ds : List Driver} {d c d' c' : Nat} {h : HostSide} {ctx ctx' : Context} {drv : Driver}
    (hi : ContextIs ds d c h ctx) (hd : ds[d']? = some drv) (hne : Turn.host d' c' ≠ .host d c) :
    ContextIs (ds.set d' (drv.setContext c' ctx')) d c h ctx := by
  obtain ⟨drv0, hd0, hside, hctx⟩ := hi
  obtain ⟨hlt, -⟩ := List.getElem?_eq_some_iff.mp hd
  by_cases hdd : d' = d
  · subst hdd
    have hcc : c' ≠ c := fun h => hne (by rw [h])
    obtain rfl : drv = drv0 := Option.some.inj (hd.symm.trans hd0)
    exact ⟨_, List.getElem?_set_self hlt, hside, (List.getElem?_set_ne hcc).trans hctx⟩
  · exact ⟨drv0, (List.getElem?_set_ne hdd).trans hd0, hside, hctx⟩

/-- A move of this context: its script is carried on, and the turns of the others see what they saw. -/
theorem step_context {s s' : State} {ds : List Driver} {ts : List Turn} {d c : Nat} {h : HostSide} {ctx : Context}
    {k k' : Script} (hi : ContextIs ds d c h ctx) (hk : ctx.running = some k)
    (e : scriptStep h k s = .next (s', k')) :
    ∃ ds', step (s.withAgents ds (.host d c :: ts)) = .next (s'.withAgents ds' ts) ∧
      ContextIs ds' d c h (settle ctx k') ∧
      ∀ w u v, w ≠ .host d c → u.drivers = ds' → v.drivers = ds → turnFrame w u = turnFrame w v := by
  obtain ⟨drv, hd, rfl, hc⟩ := hi
  obtain ⟨hlt, -⟩ := List.getElem?_eq_some_iff.mp hd
  obtain ⟨hlt', -⟩ := List.getElem?_eq_some_iff.mp hc
  exact ⟨_, step_running hd hc hk e,
    ⟨_, List.getElem?_set_self hlt, rfl, List.getElem?_set_self hlt'⟩,
    fun w u v hw hu hv => turnFrame_setContext (hv ▸ hd) (hv ▸ hu) hw⟩

/-- The move that issues a transaction which answers. -/
theorem scriptStep_of_frame {h : HostSide} {k : Script} {f : Frame} {s t : State}
    (hf : scriptFrame h k = some f) (ht : transact f s = .next t) : ∃ k', scriptStep h k s = .next (t, k') := by
  cases k with
  | done _ | qualify _ _ => cases hf
  | write _ _ _ => cases hf; exact ⟨_, by rw [scriptStep, busWrite, ht]; rfl⟩
  | rmw _ _ _ _ | read _ _ => cases hf; exact ⟨_, by rw [scriptStep, busRead, ht]; rfl⟩
  | readPending => cases hf; exact ⟨_, by rw [scriptStep, busRead, Reg.addr, ht]; rfl⟩
  | readCaptured _ => cases hf; exact ⟨_, by rw [scriptStep, busRead, Reg.addr, ht]; rfl⟩

/-- A turn that issues a transaction which answers makes that transaction, and of the drivers changes its own
context at most. -/
theorem takeTurn_of_turnFrame {w : Turn} {u v : State} {f : Frame} (hf : turnFrame w u = some f)
    (hv : transact f u = .next v) (hdrivers : v.drivers = u.drivers) {d c : Nat} (hw : w ≠ .host d c)
    {h : HostSide} {ctx : Context} (hi : ContextIs u.drivers d c h ctx) :
    ∃ ds, takeTurn w u = .next (v.setDrivers ds) ∧ ContextIs ds d c h ctx := by
  cases w with
  | direct f' => cases hf; exact ⟨u.drivers, hv.trans (by rw [← hdrivers]; rfl), hi⟩
  | environ x => cases hf
  | chipReset => cases hf
  | hostRestart d' => cases hf
  | host d' c' =>
    simp only [turnFrame, Option.bind_eq_some_iff] at hf
    obtain ⟨drv, hd, ctx', hc, k, hk, hframe⟩ := hf
    obtain ⟨k', hstep⟩ := scriptStep_of_frame hframe hv
    refine ⟨_, ?_, hi.set (ctx' := settle ctx' k') hd hw⟩
    rw [takeTurn, hostTurn_running hd hc hk, hstep, andThen]
    exact congrArg Host.Outcome.next (congrArg v.setDrivers (by rw [hdrivers]))

/-- The read of a setBit in progress, as a step. -/
theorem scriptStep_rmw {h : HostSide} {s : State} (hr : Reaches h s) (r : Reg) (p : Pin) (v : Bool) (k : Script) :
    scriptStep h (.rmw r.addr p v k) s =
      .next (afterRead r s, .write r.addr (withBit (memRead r s).1 p v) k) := by
  rw [scriptStep, busRead_reaches hr]; rfl

/-- The write of a setBit in progress, as a step. -/
theorem scriptStep_write {h : HostSide} {s : State} (hr : Reaches h s) (r : Reg) (b : Byte) (k : Script) :
    scriptStep h (.write r.addr b k) s = .next (afterWrite r b s, k) := by
  rw [scriptStep, busWrite_reaches hr]; rfl

/-- The stored byte of a plain storage register after a write of it. -/
theorem plainStored_afterWrite {r : Reg} {val : Chip → Byte} (hv : plainStored r = some val) (b : Byte)
    (s : State) : val (afterWrite r b s).chip = b :=
  (plainStored_congr hv (afterWrite_storage (.refl _) r b)).trans (plainStored_chipAfterWrite hv ..)

/-- A write of another context or bus master. -/
theorem takeTurn_other_write {w : Turn} {u : State} {h : HostSide} (hr : Reaches h u) {r : Reg} {b : Byte}
    (hf : turnFrame w u = some (.write (devAddr u) r.addr [b])) {d c : Nat} (hw : w ≠ .host d c) {ctx : Context}
    (hi : ContextIs u.drivers d c h ctx) :
    ∃ ds, takeTurn w u = .next ((afterWrite r b u).setDrivers ds) ∧ ContextIs ds d c h ctx :=
  takeTurn_of_turnFrame hf ((transact_write ..).trans (writeTransaction_quiet hr.quiet r b)) rfl hw hi

/-- Settles O59: the write of setBit carries the byte read before the other write. -/
theorem lostUpdate : Obligations.LostUpdate := by
  intro s r val d c drv ctx p v k b w ts hr hv hd hc hk hw hframe hs
  have hread : scriptStep drv.side (.rmw r.addr p v k) s =
      .next (afterRead r s, .write r.addr (withBit (val s.chip) p v) k) := by
    rw [scriptStep_rmw hr, memRead_plain hv]
  obtain ⟨ds1, hone, hi1, hsame⟩ :=
    step_context (ts := w :: .host d c :: ts) ⟨drv, hd, rfl, hc⟩ hk hread
  obtain ⟨u, hu⟩ : ∃ u, u = (afterRead r s).withAgents ds1 (.host d c :: ts) := ⟨_, rfl⟩
  have hru : Reaches drv.side u := hu ▸ hr.read r
  have hother : turnFrame w u = some (.write (devAddr u) r.addr [b]) := by
    rw [hsame w u s hw (hu ▸ rfl) rfl, hframe, hu]; rfl
  obtain ⟨ds2, htwo, hi2⟩ := takeTurn_other_write hru hother hw (by rw [hu]; exact hi1)
  obtain ⟨ds3, hthree, -, -⟩ := step_context (ts := ts) (k := .write r.addr (withBit (val s.chip) p v) k)
    hi2 rfl (scriptStep_write (hru.write r b) r _ k)
  rw [← hs] at hone
  refine ⟨_, (afterWrite r b u).withAgents ds2 (.host d c :: ts), _, hone, ?_, hthree, ?_, ?_, rfl⟩
  · calc step ((afterRead r s).withAgents ds1 (w :: .host d c :: ts))
        = takeTurn w u := by rw [step_cons (u := w) (ts := .host d c :: ts) rfl, hu]; rfl
      _ = .next ((afterWrite r b u).withAgents ds2 (.host d c :: ts)) := by rw [htwo, hu]; rfl
  · exact plainStored_afterWrite hv b u
  · exact plainStored_afterWrite hv (withBit (val s.chip) p v) _

end Sys2Proof.Machine
end
